-- ==== Sys2Proof/Word.lean ====
section
/-! DEFINITION. The words the CORE moves: bytes, 32-bit words, and the encodings of binary64 data
(00_scope.md R14, R17). -/

namespace Sys2Proof

/-- A byte of LMEM (10_state.md R115). -/
abbrev Byte := BitVec 8

/-- A register, a descriptor word or a host-port word (10_state.md R103, 30_encoding.md R300). -/
abbrev Word := BitVec 32

/-- A binary64 datum, as its 64-bit encoding (00_scope.md R17). The arithmetic is in
Machine/Numeric.lean. -/
abbrev F64 := BitVec 64

end Sys2Proof
end

