-- ==== Sys2Proof/Syntax.lean ====
section
/-! DEFINITION. The commands of the CORE (30_encoding.md R306): one constructor for each row of
spec/opcode_table.json, and the 32-byte descriptor they are encoded in (R300). -/

namespace Sys2Proof

/-- The commands. Operands are the u32 words W1, W2, … in the order of 30_encoding.md R306; words a
command ignores (R302) are not part of it. A constructor ending in `C` is the `.C` form (C = 1). -/
inductive Instr where
  /-- 40_control.md R410 -/
  | nop
  /-- 40_control.md R411 -/
  | halt
  /-- 40_control.md R412 -/
  | setin (addr stop : Word)
  /-- 40_control.md R413 -/
  | setout (addr stop : Word)
  /-- 40_control.md R414 -/
  | sput (src n : Word)
  /-- 40_control.md R415 -/
  | sget (dst n : Word)
  /-- 41_color.md R510 -/
  | cscf (src y cb cr dims : Word)
  /-- 41_color.md R511 -/
  | csci (y cb cr dst dims : Word)
  /-- 42_subsample.md R610 -/
  | subs (src dst dims : Word)
  /-- 42_subsample.md R611 -/
  | ups (src dst dims : Word)
  /-- 43_transform.md R710 -/
  | fdct (src dst : Word)
  /-- 43_transform.md R711 -/
  | idct (src dst : Word)
  /-- 44_quantizer.md R810 -/
  | quant (src dst : Word)
  /-- 44_quantizer.md R810, C = 1 -/
  | quantC (src dst : Word)
  /-- 44_quantizer.md R811 -/
  | dequant (src dst : Word)
  /-- 44_quantizer.md R811, C = 1 -/
  | dequantC (src dst : Word)
  /-- 44_quantizer.md R812 -/
  | qplane (src dst dims : Word)
  /-- 44_quantizer.md R812, C = 1 -/
  | qplaneC (src dst dims : Word)
  /-- 44_quantizer.md R813 -/
  | dqplane (src dst dims : Word)
  /-- 44_quantizer.md R813, C = 1 -/
  | dqplaneC (src dst dims : Word)
  /-- 45_zigzag.md R910 -/
  | zz (src dst : Word)
  /-- 45_zigzag.md R911 -/
  | unzz (src dst : Word)
  /-- 45_zigzag.md R912 -/
  | ser (src dst dims : Word)
  /-- 45_zigzag.md R912, C = 1 -/
  | serC (src dst dims : Word)
  /-- 45_zigzag.md R913 -/
  | deser (src dst dims : Word)
  /-- 45_zigzag.md R913, C = 1 -/
  | deserC (src dst dims : Word)
  /-- 46_zero_run.md R1010 -/
  | zrle (src n : Word)
  /-- 46_zero_run.md R1011 -/
  | zrld (dst n : Word)
  /-- 47_motion.md R1110 -/
  | me (ref tgt vec res dims radius : Word)
  /-- 47_motion.md R1111 -/
  | psub (tgt ref vec dst dims : Word)
  /-- 47_motion.md R1111, C = 1 -/
  | psubC (tgt ref vec dst dims : Word)
  /-- 47_motion.md R1112 -/
  | padd (res ref vec dst dims : Word)
  /-- 47_motion.md R1112, C = 1 -/
  | paddC (res ref vec dst dims : Word)
deriving DecidableEq, Repr

/-- The mnemonics without `.C` of 30_encoding.md R306, as names. -/
inductive Opcode where
  | nop | halt | setin | setout | sput | sget | cscf | csci | subs | ups | fdct | idct
  | quant | dequant | qplane | dqplane | zz | unzz | ser | deser | zrle | zrld | me | psub | padd
deriving DecidableEq, Repr

/-- A descriptor: eight u32 words (30_encoding.md R300). -/
structure Descriptor where
  w0 : Word
  w1 : Word
  w2 : Word
  w3 : Word
  w4 : Word
  w5 : Word
  w6 : Word
  w7 : Word
deriving DecidableEq, Repr

/-- Why bytes are no command. `opcode` and `reserved` are the two decoding errors of
30_encoding.md R307; `length` says that the bytes given are not the 32 of a descriptor (R300), which
the engine's fetch never gives. -/
inductive DecodeError where
  | opcode
  | reserved
  | length
deriving DecidableEq, Repr

end Sys2Proof
end

