-- ==== Sys2Proof/Decode.lean ====
section
/-! DEFINITION. Reading a command from a descriptor (30_encoding.md R300, R301, R306, R307) and
writing one (R311), and the assembler's spelling (R310, R311). Decoding is total and rejects by name. -/

namespace Sys2Proof

/-! ## Bytes and words (20_memory.md R200: little-endian) -/

/-- The u32 value of four bytes, the least significant first. -/
def wordOfBytes (b0 b1 b2 b3 : Byte) : Word := b3 ++ b2 ++ b1 ++ b0

/-- The four bytes of a u32, the least significant first. -/
def wordBytes (w : Word) : List Byte :=
  [w.extractLsb' 0 8, w.extractLsb' 8 8, w.extractLsb' 16 8, w.extractLsb' 24 8]

/-- The first `n` bytes of the number `v`, the least significant first. -/
def numberBytes (n v : Nat) : List Byte :=
  (List.range' 0 n).map fun i => BitVec.ofNat 8 (v / 256 ^ i)

/-- The u32 at byte `k` of a byte list (0 where the list has ended). -/
def wordAt (bs : List Byte) (k : Nat) : Word :=
  wordOfBytes (bs.getD k 0) (bs.getD (k + 1) 0) (bs.getD (k + 2) 0) (bs.getD (k + 3) 0)

/-- Word Wi of a descriptor is at byte offset 4i (30_encoding.md R300). -/
def Descriptor.ofBytes (bs : List Byte) : Descriptor where
  w0 := wordAt bs 0
  w1 := wordAt bs 4
  w2 := wordAt bs 8
  w3 := wordAt bs 12
  w4 := wordAt bs 16
  w5 := wordAt bs 20
  w6 := wordAt bs 24
  w7 := wordAt bs 28

/-- The words of a descriptor, W0 first. -/
def Descriptor.words (d : Descriptor) : List Word :=
  [d.w0, d.w1, d.w2, d.w3, d.w4, d.w5, d.w6, d.w7]

/-- The 32 bytes of a descriptor, in address order (30_encoding.md R300). -/
def Descriptor.bytes (d : Descriptor) : List Byte :=
  d.words.flatMap wordBytes

/-! ## The command word (30_encoding.md R301) -/

/-- OPC = W0[7:0]. -/
def opcField (w0 : Word) : BitVec 8 := w0.extractLsb' 0 8

/-- C = W0[8]. -/
def cField (w0 : Word) : Bool := w0.getLsbD 8

/-- RSVD = W0[31:9]. -/
def rsvdField (w0 : Word) : BitVec 23 := w0.extractLsb' 9 23

/-- W0 = (C << 8) | OPC, with RSVD = 0. -/
def commandWord (c : Bool) (opc : BitVec 8) : Word :=
  (0#23) ++ (BitVec.ofBool c) ++ opc

/-- One row of the opcode map: OPC, the mnemonic, whether the `.C` form exists. -/
structure OpcodeRow where
  opc  : BitVec 8
  op   : Opcode
  hasC : Bool
deriving DecidableEq, Repr

/-- The opcode map, in the order of 30_encoding.md R306. -/
def opcodeTable : List OpcodeRow :=
  [ ⟨0x00#8, .nop, false⟩,
    ⟨0x01#8, .halt, false⟩,
    ⟨0x02#8, .setin, false⟩,
    ⟨0x03#8, .setout, false⟩,
    ⟨0x04#8, .sput, false⟩,
    ⟨0x05#8, .sget, false⟩,
    ⟨0x10#8, .cscf, false⟩,
    ⟨0x11#8, .csci, false⟩,
    ⟨0x18#8, .subs, false⟩,
    ⟨0x19#8, .ups, false⟩,
    ⟨0x20#8, .fdct, false⟩,
    ⟨0x21#8, .idct, false⟩,
    ⟨0x28#8, .quant, true⟩,
    ⟨0x29#8, .dequant, true⟩,
    ⟨0x2A#8, .qplane, true⟩,
    ⟨0x2B#8, .dqplane, true⟩,
    ⟨0x30#8, .zz, false⟩,
    ⟨0x31#8, .unzz, false⟩,
    ⟨0x32#8, .ser, true⟩,
    ⟨0x33#8, .deser, true⟩,
    ⟨0x38#8, .zrle, false⟩,
    ⟨0x39#8, .zrld, false⟩,
    ⟨0x40#8, .me, false⟩,
    ⟨0x41#8, .psub, true⟩,
    ⟨0x42#8, .padd, true⟩ ]

/-- The row of an OPC value, if the map has one (30_encoding.md R307 step 1). -/
def opcodeRow (opc : BitVec 8) : Option OpcodeRow :=
  opcodeTable.find? fun row => row.opc == opc

/-- The command a mnemonic, its C bit and the operand words stand for (30_encoding.md R306). Only
rows with a `.C` form are asked for with `c` true. -/
def instrOf (op : Opcode) (c : Bool) (d : Descriptor) : Instr :=
  match op with
  | .nop => .nop
  | .halt => .halt
  | .setin => .setin d.w1 d.w2
  | .setout => .setout d.w1 d.w2
  | .sput => .sput d.w1 d.w2
  | .sget => .sget d.w1 d.w2
  | .cscf => .cscf d.w1 d.w2 d.w3 d.w4 d.w5
  | .csci => .csci d.w1 d.w2 d.w3 d.w4 d.w5
  | .subs => .subs d.w1 d.w2 d.w3
  | .ups => .ups d.w1 d.w2 d.w3
  | .fdct => .fdct d.w1 d.w2
  | .idct => .idct d.w1 d.w2
  | .quant => if c then .quantC d.w1 d.w2 else .quant d.w1 d.w2
  | .dequant => if c then .dequantC d.w1 d.w2 else .dequant d.w1 d.w2
  | .qplane => if c then .qplaneC d.w1 d.w2 d.w3 else .qplane d.w1 d.w2 d.w3
  | .dqplane => if c then .dqplaneC d.w1 d.w2 d.w3 else .dqplane d.w1 d.w2 d.w3
  | .zz => .zz d.w1 d.w2
  | .unzz => .unzz d.w1 d.w2
  | .ser => if c then .serC d.w1 d.w2 d.w3 else .ser d.w1 d.w2 d.w3
  | .deser => if c then .deserC d.w1 d.w2 d.w3 else .deser d.w1 d.w2 d.w3
  | .zrle => .zrle d.w1 d.w2
  | .zrld => .zrld d.w1 d.w2
  | .me => .me d.w1 d.w2 d.w3 d.w4 d.w5 d.w6
  | .psub => if c then .psubC d.w1 d.w2 d.w3 d.w4 d.w5 else .psub d.w1 d.w2 d.w3 d.w4 d.w5
  | .padd => if c then .paddC d.w1 d.w2 d.w3 d.w4 d.w5 else .padd d.w1 d.w2 d.w3 d.w4 d.w5

/-- Decoding by W0 alone, in the order of 30_encoding.md R307: an undefined OPC, then RSVD, then a C
bit on a command without a `.C` form, then the command. -/
def decode (d : Descriptor) : Except DecodeError Instr :=
  match opcodeRow (opcField d.w0) with
  | none => .error .opcode
  | some row =>
    if rsvdField d.w0 ≠ 0#23 then .error .reserved
    else if cField d.w0 && !row.hasC then .error .reserved
    else .ok (instrOf row.op (cField d.w0) d)

/-- Decoding of bytes: the 32 bytes of a descriptor, or a rejection. -/
def decodeBytes (bs : List Byte) : Except DecodeError Instr :=
  if bs.length = 32 then decode (Descriptor.ofBytes bs) else .error .length

/-- The command a table row's bits stand for: `w` is W0 with the operand words above it, bit 0 the
least significant bit of W0, the bits from `nbits` on 0. -/
def decodeTableWord (nbits w : Nat) : Option Instr :=
  match decodeBytes (numberBytes 32 (w % 2 ^ nbits)) with
  | .ok i => some i
  | .error _ => none

/-! ## Encoding -/

/-- The mnemonic of a command without `.C`, and its C bit. -/
def Instr.opcode : Instr → Opcode × Bool
  | .nop => (.nop, false)
  | .halt => (.halt, false)
  | .setin _ _ => (.setin, false)
  | .setout _ _ => (.setout, false)
  | .sput _ _ => (.sput, false)
  | .sget _ _ => (.sget, false)
  | .cscf _ _ _ _ _ => (.cscf, false)
  | .csci _ _ _ _ _ => (.csci, false)
  | .subs _ _ _ => (.subs, false)
  | .ups _ _ _ => (.ups, false)
  | .fdct _ _ => (.fdct, false)
  | .idct _ _ => (.idct, false)
  | .quant _ _ => (.quant, false)
  | .quantC _ _ => (.quant, true)
  | .dequant _ _ => (.dequant, false)
  | .dequantC _ _ => (.dequant, true)
  | .qplane _ _ _ => (.qplane, false)
  | .qplaneC _ _ _ => (.qplane, true)
  | .dqplane _ _ _ => (.dqplane, false)
  | .dqplaneC _ _ _ => (.dqplane, true)
  | .zz _ _ => (.zz, false)
  | .unzz _ _ => (.unzz, false)
  | .ser _ _ _ => (.ser, false)
  | .serC _ _ _ => (.ser, true)
  | .deser _ _ _ => (.deser, false)
  | .deserC _ _ _ => (.deser, true)
  | .zrle _ _ => (.zrle, false)
  | .zrld _ _ => (.zrld, false)
  | .me _ _ _ _ _ _ => (.me, false)
  | .psub _ _ _ _ _ => (.psub, false)
  | .psubC _ _ _ _ _ => (.psub, true)
  | .padd _ _ _ _ _ => (.padd, false)
  | .paddC _ _ _ _ _ => (.padd, true)

/-- The operand words a command uses, W1 first (30_encoding.md R306, R310). -/
def Instr.operands : Instr → List Word
  | .nop => []
  | .halt => []
  | .setin a b => [a, b]
  | .setout a b => [a, b]
  | .sput a b => [a, b]
  | .sget a b => [a, b]
  | .cscf a b c d e => [a, b, c, d, e]
  | .csci a b c d e => [a, b, c, d, e]
  | .subs a b c => [a, b, c]
  | .ups a b c => [a, b, c]
  | .fdct a b => [a, b]
  | .idct a b => [a, b]
  | .quant a b => [a, b]
  | .quantC a b => [a, b]
  | .dequant a b => [a, b]
  | .dequantC a b => [a, b]
  | .qplane a b c => [a, b, c]
  | .qplaneC a b c => [a, b, c]
  | .dqplane a b c => [a, b, c]
  | .dqplaneC a b c => [a, b, c]
  | .zz a b => [a, b]
  | .unzz a b => [a, b]
  | .ser a b c => [a, b, c]
  | .serC a b c => [a, b, c]
  | .deser a b c => [a, b, c]
  | .deserC a b c => [a, b, c]
  | .zrle a b => [a, b]
  | .zrld a b => [a, b]
  | .me a b c d e f => [a, b, c, d, e, f]
  | .psub a b c d e => [a, b, c, d, e]
  | .psubC a b c d e => [a, b, c, d, e]
  | .padd a b c d e => [a, b, c, d, e]
  | .paddC a b c d e => [a, b, c, d, e]

/-- The OPC value of a mnemonic (30_encoding.md R306). Every mnemonic has a row. -/
def opcOf (op : Opcode) : BitVec 8 :=
  match opcodeTable.find? fun row => row.op == op with
  | some row => row.opc
  | none => 0xFF#8

/-- The descriptor the assembler writes: RSVD and every unused operand word are 0 (R311). -/
def encode (i : Instr) : Descriptor :=
  let ws := i.operands
  { w0 := commandWord i.opcode.2 (opcOf i.opcode.1)
    w1 := ws.getD 0 0
    w2 := ws.getD 1 0
    w3 := ws.getD 2 0
    w4 := ws.getD 3 0
    w5 := ws.getD 4 0
    w6 := ws.getD 5 0
    w7 := ws.getD 6 0 }

/-- The 32 bytes of an encoded command, in address order. -/
def encodeBytes (i : Instr) : List Byte := (encode i).bytes

/-! ## The assembler's spelling (30_encoding.md R310, R311). Log 18. -/

/-- The operand expression `DIMS(h, w)` is (w << 16) | h (R310). -/
def dimsWord (h w : BitVec 16) : Word := w ++ h

/-- The spelling of a mnemonic (R306). -/
def Opcode.spelling : Opcode → String
  | .nop => "NOP"
  | .halt => "HALT"
  | .setin => "SETIN"
  | .setout => "SETOUT"
  | .sput => "SPUT"
  | .sget => "SGET"
  | .cscf => "CSCF"
  | .csci => "CSCI"
  | .subs => "SUBS"
  | .ups => "UPS"
  | .fdct => "FDCT"
  | .idct => "IDCT"
  | .quant => "QUANT"
  | .dequant => "DEQUANT"
  | .qplane => "QPLANE"
  | .dqplane => "DQPLANE"
  | .zz => "ZZ"
  | .unzz => "UNZZ"
  | .ser => "SER"
  | .deser => "DESER"
  | .zrle => "ZRLE"
  | .zrld => "ZRLD"
  | .me => "ME"
  | .psub => "PSUB"
  | .padd => "PADD"

/-- The spelling of a command's mnemonic: `.C` sets C = 1 (R310). -/
def Instr.mnemonic (i : Instr) : String :=
  if i.opcode.2 then i.opcode.1.spelling ++ ".C" else i.opcode.1.spelling

/-- A word as `0x` and eight hex digits. -/
def hexWord (w : Word) : String :=
  "0x" ++ String.ofList ((List.range' 0 8).map fun k => Nat.digitChar (w.toNat / 16 ^ (7 - k) % 16))

/-- The disassembler of R311: a defined command as its mnemonic and used operands, an undefined W0
as `.word` with the error it would raise. -/
def disassemble (d : Descriptor) : String :=
  match decode d with
  | .ok i =>
    if i.operands.isEmpty then i.mnemonic
    else i.mnemonic ++ " " ++ String.intercalate ", " (i.operands.map hexWord)
  | .error .opcode => ".word " ++ hexWord d.w0 ++ " ; E_OPCODE"
  | .error _ => ".word " ++ hexWord d.w0 ++ " ; E_RSVD"

/-- A line of a command list: a descriptor, or `.org A` (R310). -/
inductive AsmLine where
  | org (addr : Nat)
  | command (i : Instr)
deriving DecidableEq, Repr

/-- The layout of a command list whose next descriptor goes to `addr`: each descriptor with its
address, the next one 32 bytes on; none where `.org` names no multiple of 32 (R310). -/
def assembleFrom (addr : Nat) : List AsmLine → Option (List (Nat × Descriptor))
  | [] => some []
  | .org a :: rest => if a % 32 = 0 then assembleFrom a rest else none
  | .command i :: rest => (assembleFrom (addr + 32) rest).map ((addr, encode i) :: ·)

end Sys2Proof
end

