-- ==== Sys2Proof/Config.lean ====
section
/-! DEFINITION. What an instance of the hardware fixes (00_scope.md R11), and the free values: the
values the spec says are unspecified, as constants without a body. -/

namespace Sys2Proof

/-- The 13 colour-conversion coefficients (00_scope.md R11, 41_color.md R500), named as in R500. -/
structure Csc where
  yr : F64
  yg : F64
  yb : F64
  br : F64
  bg : F64
  bb : F64
  rr : F64
  rg : F64
  rb : F64
  rCr : F64
  gCb : F64
  gCr : F64
  bCb : F64
deriving DecidableEq, Repr

/-- The parameters of 00_scope.md R11. Each is fixed for one instance of the hardware. They stand in
the state because software reads three of them as registers (10_state.md R112, R113); no step changes
them. The tables are in natural order (44_quantizer.md R800). Log 8. -/
structure Params where
  lmemSize   : Nat
  qtabLuma   : List Byte
  qtabChroma : List Byte
  csc        : Csc
deriving DecidableEq, Repr

/-- A quantization table is legal: 64 entries, each in 1..255 (00_scope.md R11). -/
def qtabLegal (t : List Byte) : Bool :=
  t.length == 64 && t.all (fun b => b != 0#8)

/-- The parameters are in the ranges of 00_scope.md R11. -/
def Params.legal (p : Params) : Bool :=
  p.lmemSize % 32 == 0 && decide (4096 ≤ p.lmemSize) && decide (p.lmemSize ≤ 0x1000000) &&
    qtabLegal p.qtabLuma && qtabLegal p.qtabChroma

/-- FREE VALUE. The byte at LMEM address `a` in draw number `d`. Draw numbers name events that leave
bytes unspecified: a reset by rst_n (70_reset_and_hazards.md R1400), an execution-time error
(60_exceptions.md R1304), a command abandoned by SRST (70_reset_and_hazards.md R1401). Nothing can
evaluate it. Logs 4, 5, 6. -/
opaque Config.freeByte (d a : Nat) : Byte

/-- FREE VALUE. Which of the command boundaries reached so far a host read of CP, CMD_COUNT, INP or
OUTP sees while the engine is busy (10_state.md R117), for draw number `d`. Log 7. -/
opaque Config.freeIndex (d : Nat) : Nat

end Sys2Proof
end

