-- ==== Sys2Proof/Machine/Numeric.lean ====
section
/-! DEFINITION. Integers and binary64 arithmetic (00_scope.md R14, R17 to R21).

Every finite binary64 value is an integer number of units of 2^-1074, so an operation computes its
exact result as a ratio of integers and `roundMagnitude` rounds it once. The IEEE 754 rules are the
standard's, which R17 adopts (PRESUMED, log 9). -/

namespace Sys2Proof.Machine

/-! ## Integers (R14) -/

/-- ceil_div(a, b). -/
def ceilDiv (a b : Nat) : Nat := (a + b - 1) / b

/-- pad8(n). -/
def pad8 (n : Nat) : Nat := 8 * ceilDiv n 8

/-- clamp(n, lo, hi). -/
def clampInt (n lo hi : Int) : Int := min (max n lo) hi

/-- byte(n): n mod 256. -/
def byteOfInt (n : Int) : Byte := BitVec.ofInt 8 n

/-- sext_8(b): the i8 value of a byte. -/
def sext8 (b : Byte) : Int := b.toInt

/-! ## The parts of a binary64 encoding -/

/-- The sign bit. -/
def f64Sign (x : F64) : Bool := x.msb

/-- The biased exponent, 0..2047. -/
def f64Exponent (x : F64) : Nat := (x.extractLsb' 52 11).toNat

/-- The fraction field. -/
def f64Fraction (x : F64) : Nat := (x.extractLsb' 0 52).toNat

def f64IsNaN (x : F64) : Bool := f64Exponent x == 2047 && f64Fraction x != 0

def f64IsInf (x : F64) : Bool := f64Exponent x == 2047 && f64Fraction x == 0

/-- A zero of either sign. -/
def f64IsZero (x : F64) : Bool := f64Exponent x == 0 && f64Fraction x == 0

/-- 2^1074: how many units the value 1 is. -/
def f64One : Nat := 2 ^ 1074

/-- The magnitude of a finite datum, in units of 2^-1074; subnormals as they are (R17). -/
def f64Units (x : F64) : Nat :=
  if f64Exponent x = 0 then f64Fraction x
  else (2 ^ 52 + f64Fraction x) * 2 ^ (f64Exponent x - 1)

/-- The exact value of a finite datum, in units of 2^-1074. -/
def f64Value (x : F64) : Int :=
  if f64Sign x then - (f64Units x : Int) else (f64Units x : Int)

/-- The datum of a sign and the 63 low bits of an encoding. -/
def f64Pack (sign : Bool) (magnitude : Nat) : F64 :=
  BitVec.ofNat 64 ((if sign then 2 ^ 63 else 0) + magnitude)

/-- The canonical NaN (R17). -/
def f64NaN : F64 := 0x7FF8000000000000#64

/-- Infinity, as the low 63 bits of its encoding. -/
def f64InfMagnitude : Nat := 2047 * 2 ^ 52

/-- +0.0 -/
def f64Zero : F64 := 0x0000000000000000#64

/-- Round half to even: the integer nearest to num / den. -/
def nearestEven (num den : Nat) : Nat :=
  let q := num / den
  let r := num % den
  if den < 2 * r ∨ (2 * r = den ∧ q % 2 = 1) then q + 1 else q

/-- roundTiesToEven (R17) of the exact magnitude num / den, in units of 2^-1074, as the low 63 bits
of an encoding. Below 2^53 units the encoding is the number of units itself; above, the significand
has 53 bits and a carry out of it moves into the exponent; too large a magnitude gives infinity. -/
def roundMagnitude (num den : Nat) : Nat :=
  let q := num / den
  if q < 2 ^ 53 then nearestEven num den
  else
    let shift := Nat.log2 q - 52
    min (shift * 2 ^ 52 + nearestEven num (den * 2 ^ shift)) f64InfMagnitude

/-- The datum nearest to sign · num / den, where num / den is in units of 2^-1074. -/
def f64Round (sign : Bool) (num den : Nat) : F64 := f64Pack sign (roundMagnitude num den)

/-! ## Operations (R17). Each rounds once; every NaN result is the canonical NaN. -/

/-- A datum with its sign bit inverted. -/
def f64Negate (x : F64) : F64 := x ^^^ 0x8000000000000000#64

/-- fadd. An exact zero sum is +0.0, but for two negative zeros. -/
def fadd (a b : F64) : F64 :=
  if f64IsNaN a || f64IsNaN b then f64NaN
  else if f64IsInf a then
    (if f64IsInf b && f64Sign a != f64Sign b then f64NaN else a)
  else if f64IsInf b then b
  else
    let s := f64Value a + f64Value b
    if s = 0 then f64Pack (f64Sign a && f64Sign b) 0
    else f64Round (decide (s < 0)) s.natAbs 1

/-- fsub: a plus b with its sign inverted. -/
def fsub (a b : F64) : F64 := fadd a (f64Negate b)

/-- fmul. -/
def fmul (a b : F64) : F64 :=
  let sign := f64Sign a != f64Sign b
  if f64IsNaN a || f64IsNaN b then f64NaN
  else if f64IsInf a || f64IsInf b then
    (if f64IsZero a || f64IsZero b then f64NaN else f64Pack sign f64InfMagnitude)
  else f64Round sign (f64Units a * f64Units b) f64One

/-- fdiv. -/
def fdiv (a b : F64) : F64 :=
  let sign := f64Sign a != f64Sign b
  if f64IsNaN a || f64IsNaN b then f64NaN
  else if f64IsInf a then (if f64IsInf b then f64NaN else f64Pack sign f64InfMagnitude)
  else if f64IsInf b then f64Pack sign 0
  else if f64IsZero b then (if f64IsZero a then f64NaN else f64Pack sign f64InfMagnitude)
  else f64Round sign (f64Units a * f64One) (f64Units b)

/-- fabs clears the sign bit, of a NaN too. -/
def fabs (x : F64) : F64 := x &&& 0x7FFFFFFFFFFFFFFF#64

/-- An order key: the exact value of a finite datum, infinities beyond every finite value. -/
def f64Key (x : F64) : Int :=
  if f64IsInf x then (if f64Sign x then - (2 : Int) ^ 2100 else (2 : Int) ^ 2100) else f64Value x

/-- flt, false when either operand is a NaN. -/
def flt (a b : F64) : Bool :=
  !f64IsNaN a && !f64IsNaN b && decide (f64Key a < f64Key b)

/-- f64(n): the binary64 value of an integer, exact for |n| < 2^53. -/
def f64OfInt (n : Int) : F64 := f64Round (decide (n < 0)) (n.natAbs * f64One) 1

/-- The binary64 value nearest to a decimal written as a ratio (R17). -/
def f64Decimal (negative : Bool) (num den : Nat) : F64 := f64Round negative (num * f64One) den

/-! ## Conversions to integers (R19 to R21) -/

/-- rhaz: a finite datum rounded half away from zero, on its exact value. -/
def rhaz (x : F64) : Int :=
  let m : Nat := (2 * f64Units x + f64One) / (2 * f64One)
  if f64Sign x then - (m : Int) else (m : Int)

/-- toI8; none where it raises E_NUMERIC (R20). -/
def toI8 (x : F64) : Option Int :=
  if f64IsNaN x then none
  else if f64IsInf x then some (if f64Sign x then -128 else 127)
  else some (clampInt (rhaz x) (-128) 127)

/-- toU8; none where it raises E_NUMERIC (R21). -/
def toU8 (x : F64) : Option Int :=
  if f64IsNaN x then none
  else if flt x f64Zero then some 0
  else if flt (f64OfInt 255) x then some 255
  else some (rhaz x)

/-! ## Lists -/

/-- The values f r c for r < rows and c < cols, row by row: the loops `for r …, c …` of the rules. -/
def grid {α : Type} (rows cols : Nat) (f : Nat → Nat → α) : List α :=
  (List.range' 0 rows).flatMap fun r => (List.range' 0 cols).map fun c => f r c

/-- All the values of a list, if each is there. -/
def allSome {α : Type} : List (Option α) → Option (List α)
  | [] => some []
  | none :: _ => none
  | some x :: rest =>
    match allSome rest with
    | none => none
    | some xs => some (x :: xs)

end Sys2Proof.Machine
end

