-- ==== Sys2Proof/Machine/Tables.lean ====
section
/-! DEFINITION. The constant tables of the spec: the cosine table and C0 (43_transform.md R700, R701),
the zigzag walk (45_zigzag.md R900), and the defaults of the parameters (00_scope.md R11). -/

namespace Sys2Proof.Machine

/-! ## Transform (43_transform.md) -/

/-- COS[x][u], row x after row x (R700). The hex words are normative. -/
def cosTable : List F64 :=
  [ 0x3FF0000000000000#64, 0x3FEF6297CFF75CB0#64, 0x3FED906BCF328D46#64, 0x3FEA9B66290EA1A3#64,
      0x3FE6A09E667F3BCD#64, 0x3FE1C73B39AE68C9#64, 0x3FD87DE2A6AEA964#64, 0x3FC8F8B83C69A60D#64,
    0x3FF0000000000000#64, 0x3FEA9B66290EA1A3#64, 0x3FD87DE2A6AEA964#64, 0xBFC8F8B83C69A608#64,
      0xBFE6A09E667F3BCC#64, 0xBFEF6297CFF75CB0#64, 0xBFED906BCF328D47#64, 0xBFE1C73B39AE68C8#64,
    0x3FF0000000000000#64, 0x3FE1C73B39AE68C9#64, 0xBFD87DE2A6AEA962#64, 0xBFEF6297CFF75CB0#64,
      0xBFE6A09E667F3BCE#64, 0x3FC8F8B83C69A60C#64, 0x3FED906BCF328D44#64, 0x3FEA9B66290EA1A5#64,
    0x3FF0000000000000#64, 0x3FC8F8B83C69A60D#64, 0xBFED906BCF328D46#64, 0xBFE1C73B39AE68C8#64,
      0x3FE6A09E667F3BCB#64, 0x3FEA9B66290EA1A5#64, 0xBFD87DE2A6AEA965#64, 0xBFEF6297CFF75CB2#64,
    0x3FF0000000000000#64, 0xBFC8F8B83C69A608#64, 0xBFED906BCF328D47#64, 0x3FE1C73B39AE68C5#64,
      0x3FE6A09E667F3BCE#64, 0xBFEA9B66290EA1A2#64, 0xBFD87DE2A6AEA971#64, 0x3FEF6297CFF75CB0#64,
    0x3FF0000000000000#64, 0xBFE1C73B39AE68C6#64, 0xBFD87DE2A6AEA96D#64, 0x3FEF6297CFF75CB0#64,
      0xBFE6A09E667F3BC5#64, 0xBFC8F8B83C69A602#64, 0x3FED906BCF328D46#64, 0xBFEA9B66290EA1A1#64,
    0x3FF0000000000000#64, 0xBFEA9B66290EA1A4#64, 0x3FD87DE2A6AEA967#64, 0x3FC8F8B83C69A61D#64,
      0xBFE6A09E667F3BC9#64, 0x3FEF6297CFF75CB2#64, 0xBFED906BCF328D43#64, 0x3FE1C73B39AE68C2#64,
    0x3FF0000000000000#64, 0xBFEF6297CFF75CB0#64, 0x3FED906BCF328D44#64, 0xBFEA9B66290EA1A2#64,
      0x3FE6A09E667F3BC4#64, 0xBFE1C73B39AE68C2#64, 0x3FD87DE2A6AEA95F#64, 0xBFC8F8B83C69A616#64 ]

/-- COS[x][u] for x, u in 0..7. -/
def cosEntry (x u : Nat) : F64 := cosTable.getD (8 * x + u) 0

/-- C0 (R701). -/
def c0 : F64 := 0x3FE6A09E667F3BCD#64

/-- C(u): C0 for u = 0, else 1.0 (R701). -/
def cScale (u : Nat) : F64 := if u = 0 then c0 else f64OfInt 1

/-- 0.25, the normalization constant of R702 and R703. -/
def quarter : F64 := f64Decimal false 1 4

/-! ## Zigzag (45_zigzag.md) -/

/-- ZZ[0..63]: the natural index visited at each position of the walk (R900). -/
def zzTable : List Nat :=
  [ 0, 1, 8, 16, 9, 2, 3, 10, 17, 24, 32, 25, 18, 11, 4, 5,
    12, 19, 26, 33, 40, 48, 41, 34, 27, 20, 13, 6, 7, 14, 21, 28,
    35, 42, 49, 56, 57, 50, 43, 36, 29, 22, 15, 23, 30, 37, 44, 51,
    58, 59, 52, 45, 38, 31, 39, 46, 53, 60, 61, 54, 47, 55, 62, 63 ]

/-- ZZ[j]. -/
def zzEntry (j : Nat) : Nat := zzTable.getD j 0

/-- The zigzag position of natural index k: the inverse of ZZ (R900). -/
def zzPosition (k : Nat) : Nat := zzTable.idxOf k

/-! ## Defaults of the parameters (00_scope.md R11) -/

/-- The default of QTAB_LUMA, natural order (44_quantizer.md R800). -/
def defaultQtabLuma : List Byte :=
  [ 16, 11, 10, 16, 24, 40, 51, 61,
    12, 12, 14, 19, 26, 58, 60, 55,
    14, 13, 16, 24, 40, 57, 69, 56,
    14, 17, 22, 29, 51, 87, 80, 62,
    18, 22, 37, 56, 68, 109, 103, 77,
    24, 35, 55, 64, 81, 104, 113, 92,
    49, 64, 78, 87, 103, 121, 120, 101,
    72, 92, 95, 98, 112, 100, 103, 99 ]

/-- The default of QTAB_CHROMA, natural order (44_quantizer.md R801). -/
def defaultQtabChroma : List Byte :=
  [ 17, 18, 24, 47, 99, 99, 99, 99,
    18, 21, 26, 66, 99, 99, 99, 99,
    24, 26, 56, 99, 99, 99, 99, 99,
    47, 66, 99, 99, 99, 99, 99, 99,
    99, 99, 99, 99, 99, 99, 99, 99,
    99, 99, 99, 99, 99, 99, 99, 99,
    99, 99, 99, 99, 99, 99, 99, 99,
    99, 99, 99, 99, 99, 99, 99, 99 ]

/-- The default of CSC: each coefficient is the binary64 value nearest to its decimal (41_color.md
R500). -/
def defaultCsc : Csc where
  yr := f64Decimal false 299 1000
  yg := f64Decimal false 587 1000
  yb := f64Decimal false 114 1000
  br := f64Decimal true 168736 1000000
  bg := f64Decimal true 331264 1000000
  bb := f64Decimal false 5 10
  rr := f64Decimal false 5 10
  rg := f64Decimal true 418688 1000000
  rb := f64Decimal true 81312 1000000
  rCr := f64Decimal false 1402 1000
  gCb := f64Decimal false 344136 1000000
  gCr := f64Decimal false 714136 1000000
  bCb := f64Decimal false 1772 1000

/-- The default of LMEM_SIZE (R11). -/
def defaultLmemSize : Nat := 0x1000000

/-- The parameters at their defaults. Log 8. -/
def defaultParams : Params where
  lmemSize := defaultLmemSize
  qtabLuma := defaultQtabLuma
  qtabChroma := defaultQtabChroma
  csc := defaultCsc

end Sys2Proof.Machine
end

