-- ==== Sys2Proof/Machine/State.lean ====
section
/-! DEFINITION. The state of the CORE as plain data: the register block (10_state.md R104), LMEM
(R115), the host port's pending side (R101, R118), and the model's own bookkeeping of free values.
Every field is listed in INVENTORY.md under State. -/

namespace Sys2Proof.Machine

/-- The error codes 0..10 of 60_exceptions.md R1302. Codes 11..255 are never written (U14). -/
inductive ErrCode where
  | none | opcode | rsvd | dims | range | align | overlap | arg | malformed | overflow | numeric
deriving DecidableEq, Repr

/-- LMEM (10_state.md R115): the bytes with a known value, at strictly rising addresses. An unlisted
address holds an unspecified byte (70_reset_and_hazards.md R1400), which `readByte` of Machine/Ops.lean
draws freely. Log 4. -/
abbrev Memory := List Host.Cell

/-- The canonical form of LMEM: addresses strictly rising. An unlisted address has no value of its
own, so no entry can equal what an unlisted address reads as. -/
def Memory.wf (m : Memory) : Bool := decide ((m.map Prod.fst).Pairwise (· < ·))

/-- A host-port request (10_state.md R101): h_we, h_addr[24:0], h_size[1:0], h_wdata[31:0]. -/
structure HostReq where
  we    : Bool
  addr  : BitVec 25
  size  : BitVec 2
  wdata : Word
deriving DecidableEq, Repr

/-- A host-port response (10_state.md R101): the read data of a read, the acknowledge of a write. -/
inductive Reply where
  | data (rdata : Word)
  | ack
deriving DecidableEq, Repr

/-- What the host does next (70_reset_and_hazards.md R1404). `wait` leaves the engine one step
(log 1); `rstAssert` and `rstRelease` drive rst_n to 0 and to 1 (R1400, log 10). -/
inductive HostMove where
  | access (r : HostReq)
  | rstAssert
  | rstRelease
  | wait
deriving DecidableEq, Repr

/-- The registers as of a command boundary that a busy host read may see (10_state.md R117). -/
structure Boundary where
  cp       : Word
  cmdCount : Word
  inp      : Word
  outp     : Word
deriving DecidableEq, Repr

/-- The state of the CORE. -/
structure State where
  /-- The parameters of the instance (00_scope.md R11), constant. -/
  params   : Params
  /-- STATUS.BUSY (10_state.md R104, R106). -/
  busy     : Bool
  /-- STATUS.DONE (R104, R106). -/
  done     : Bool
  /-- STATUS.ERR (R104, R106). -/
  err      : Bool
  /-- IRQ_EN.DONE_IE (R104). -/
  doneIe   : Bool
  /-- IRQ_EN.ERR_IE (R104). -/
  errIe    : Bool
  /-- CLP, bits 4:0 hardwired 0 (R104, R107). -/
  clp      : Word
  /-- CP, the program counter (R109). -/
  cp       : Word
  /-- ERR_CODE.CODE (R111). -/
  errCode  : ErrCode
  /-- CMD_COUNT (R110). -/
  cmdCount : Word
  /-- INP (R108). -/
  inp      : Word
  /-- IN_END (R108). -/
  inEnd    : Word
  /-- OUTP (R108). -/
  outp     : Word
  /-- OUT_END (R108). -/
  outEnd   : Word
  /-- LMEM (R115). -/
  lmem     : Memory
  /-- rst_n is 0 (R101; 70_reset_and_hazards.md R1400). -/
  inReset  : Bool
  /-- LMEM-window accesses held while busy, oldest first (R118). Log 2. -/
  held     : List HostReq
  /-- The model's own: the host's coming moves. Log 1. -/
  inputs   : List HostMove
  /-- The model's own: the responses given so far, newest first. Log 15. -/
  replies  : List Reply
  /-- The model's own: the boundaries the running list has reached, newest first (R117). Log 7. -/
  boundaries : List Boundary
  /-- The model's own: the draw that LMEM's unspecified bytes are. Log 4. -/
  lmemDraw : Nat
  /-- The model's own: how many draws of free values were made. Logs 4 to 7. -/
  draws    : Nat
deriving DecidableEq, Repr

/-- Why a step faults. It has no constructor: the CORE has no trap, vector or handler, every error of
60_exceptions.md is an error halt, which is a next state, and no step of this machine stops. Log 12. -/
inductive Fault where
deriving DecidableEq, Repr

/-- Why an instruction has no meaning. -/
inductive Refusal where
  /-- Only exec's arm of an instruction whose meaning is not written raises this; at present no arm
  does. Safe: the machine stops where the hardware would go on. -/
  | notModelled (mnemonic : String)
deriving DecidableEq, Repr

/-- The machine right after rst_n (70_reset_and_hazards.md R1400): every register 0, the engine idle,
no transaction held, every byte of LMEM unspecified. The parameters are at their defaults (log 8); the
model's own fields start as log 14 says. -/
def State.reset : State where
  params   := defaultParams
  busy     := false
  done     := false
  err      := false
  doneIe   := false
  errIe    := false
  clp      := 0
  cp       := 0
  errCode  := .none
  cmdCount := 0
  inp      := 0
  inEnd    := 0
  outp     := 0
  outEnd   := 0
  lmem     := []
  inReset  := false
  held     := []
  inputs   := []
  replies  := []
  boundaries := []
  lmemDraw := 0
  draws    := 1

end Sys2Proof.Machine
end

