-- ==== Sys2Proof/Machine/Ops.lean ====
section
/-! DEFINITION. The shared operations: LMEM accesses (00_scope.md R16, 20_memory.md), fetching a
descriptor (40_control.md R401), completing a command (R400), the error halt (60_exceptions.md R1300),
leaving bytes unspecified (R1304), and starting a list (10_state.md R105). -/

namespace Sys2Proof.Machine

/-! ## LMEM as a list of bytes -/

/-- The byte listed at an address, if there is one. -/
def Memory.lookup (m : Memory) (a : Nat) : Option Byte :=
  match m with
  | [] => none
  | cell :: rest => if cell.1 = a then some cell.2 else Memory.lookup rest a

/-- The cells of a byte list laid out from `base` upwards. -/
def cellsFrom (base : Nat) (bytes : List Byte) : Memory :=
  match bytes with
  | [] => []
  | b :: rest => (base, b) :: cellsFrom (base + 1) rest

/-- MemWrite(base, bytes.length, bytes): the bytes replace whatever is listed at their addresses. -/
def Memory.write (m : Memory) (base : Nat) (bytes : List Byte) : Memory :=
  m.filter (fun cell => decide (cell.1 < base)) ++ cellsFrom base bytes ++
    m.filter (fun cell => decide (base + bytes.length ≤ cell.1))

/-- The byte of LMEM at an address: the listed byte, else the unspecified byte that the address has
held since the last rst_n (70_reset_and_hazards.md R1400). Log 4. -/
def readByte (s : State) (a : Nat) : Byte :=
  match s.lmem.lookup a with
  | some b => b
  | none => Config.freeByte s.lmemDraw a

/-- MemRead(a, n), in address order (R16). -/
def readBytes (s : State) (a n : Nat) : List Byte :=
  (List.range' a n).map fun k => readByte s k

/-- RdI8 (R16). -/
def readI8 (s : State) (a : Nat) : Int := sext8 (readByte s a)

/-- RdU32 (R16), little-endian (20_memory.md R200). -/
def readU32 (s : State) (a : Nat) : Word :=
  wordOfBytes (readByte s a) (readByte s (a + 1)) (readByte s (a + 2)) (readByte s (a + 3))

/-- The binary64 datum of eight bytes, the least significant first (20_memory.md R200). -/
def f64OfWords (low high : Word) : F64 := high ++ low

/-- RdF64 (R16): the low 32 bits at a, the high 32 bits at a + 4 (20_memory.md R201). -/
def readF64 (s : State) (a : Nat) : F64 := f64OfWords (readU32 s a) (readU32 s (a + 4))

/-- The bytes WrF64 stores (R16), in address order. -/
def f64Bytes (x : F64) : List Byte :=
  wordBytes (x.extractLsb' 0 32) ++ wordBytes (x.extractLsb' 32 32)

/-- MemWrite. -/
def writeBytes (s : State) (base : Nat) (bytes : List Byte) : State :=
  { s with lmem := s.lmem.write base bytes }

/-- WrF64 of a packed sequence: element i at base + 8i. -/
def writeF64s (s : State) (base : Nat) (xs : List F64) : State :=
  writeBytes s base (xs.flatMap f64Bytes)

/-! ## Regions (00_scope.md R15) -/

/-- The region [base, base + len). -/
structure Region where
  base : Nat
  len  : Nat
deriving DecidableEq, Repr

/-- The address lies in the region. -/
def Region.contains (r : Region) (a : Nat) : Bool := decide (r.base ≤ a) && decide (a < r.base + r.len)

/-- The regions share at least one address (R15). -/
def Region.overlaps (r q : Region) : Bool :=
  decide (max r.base q.base < min (r.base + r.len) (q.base + q.len))

/-- Every byte of a region becomes unspecified: drawn anew (60_exceptions.md R1304). -/
def unspecifyRegion (s : State) (r : Region) : State :=
  { writeBytes s r.base ((List.range' r.base r.len).map (Config.freeByte s.draws)) with
    draws := s.draws + 1 }

/-- Every byte of several regions becomes unspecified. -/
def unspecify (s : State) (rs : List Region) : State :=
  match rs with
  | [] => s
  | r :: rest => unspecify (unspecifyRegion s r) rest

/-! ## Sequencing -/

/-- Fetch(CP) (40_control.md R401); none where it raises E_RANGE. -/
def fetch (s : State) : Option Descriptor :=
  if s.cp.toNat + 32 ≤ s.params.lmemSize then
    some (Descriptor.ofBytes (readBytes s s.cp.toNat 32))
  else none

/-- The registers a busy host read may see, as they stand now (10_state.md R117). -/
def boundaryNow (s : State) : Boundary := ⟨s.cp, s.cmdCount, s.inp, s.outp⟩

/-- The step to the next command boundary: CP advances by 32 and CMD_COUNT by 1, modulo 2^32. -/
def advance (s : State) : State :=
  { s with cp := s.cp + 32, cmdCount := s.cmdCount + 1 }

/-- Completion of a command other than HALT (40_control.md R400). The state holds the command's LMEM
writes and cursor updates already. The new boundary joins those reached (R117). -/
def complete (s : State) : State :=
  { advance s with boundaries := boundaryNow (advance s) :: s.boundaries }

/-- Completion of HALT (40_control.md R400, R411): the list ends with DONE. -/
def completeHalt (s : State) : State :=
  { advance s with busy := false, done := true, boundaries := [] }

/-- TAKING AN ERROR: the error halt of 60_exceptions.md R1300. CP, CMD_COUNT and the cursors keep
their values; the list ends. There is no handler and no return command: the host recovers (R1306)
with a W1C write and a new START (Machine/HostPort.lean). -/
def errorHalt (e : ErrCode) (s : State) : State :=
  { s with errCode := e, err := true, busy := false, boundaries := [] }

/-- START of a list (10_state.md R105). IRQ_EN, CLP and the cursors stay. START is the first boundary
of the new list (R117). -/
def startList (s : State) : State :=
  { s with
    cp := s.clp
    cmdCount := 0
    errCode := .none
    done := false
    err := false
    busy := true
    boundaries := [⟨s.clp, 0, s.inp, s.outp⟩] }

/-- Every register of 10_state.md R104 at its reset value, the engine idle (70_reset_and_hazards.md
R1400, R1401). LMEM, the host's side and the parameters stay. -/
def resetRegisters (s : State) : State :=
  { s with
    busy := false
    done := false
    err := false
    doneIe := false
    errIe := false
    clp := 0
    cp := 0
    errCode := .none
    cmdCount := 0
    inp := 0
    inEnd := 0
    outp := 0
    outEnd := 0
    boundaries := [] }

end Sys2Proof.Machine
end

