-- ==== Sys2Proof/Machine/Operands.lean ====
section
/-! DEFINITION. The operand forms (30_encoding.md R302 to R305), the regions they name (20_memory.md
R203), and the operand checks in the order of 60_exceptions.md R1303. -/

namespace Sys2Proof.Machine

/-! ## DIMS words and plane dimensions -/

/-- h = DIMS[15:0] (30_encoding.md R304). -/
def dimsH (d : Word) : Nat := (d.extractLsb' 0 16).toNat

/-- w = DIMS[31:16] (R304). -/
def dimsW (d : Word) : Nat := (d.extractLsb' 16 16).toNat

/-- Plane rows: h for C = 0, ceil_div(h, 2) for C = 1 (R305). -/
def planeRows (c : Bool) (d : Word) : Nat := if c then ceilDiv (dimsH d) 2 else dimsH d

/-- Plane columns: w for C = 0, ceil_div(w, 2) for C = 1 (R305). -/
def planeCols (c : Bool) (d : Word) : Nat := if c then ceilDiv (dimsW d) 2 else dimsW d

/-! ## Operands: a region and its element kind (20_memory.md R203) -/

/-- A region an operand names; `f64` says that its elements are binary64, so that its base must be a
multiple of 8 (20_memory.md R212). -/
structure Operand where
  region : Region
  f64    : Bool
deriving DecidableEq, Repr

/-- BYTES(n), SEQ(n). -/
def bytesOperand (a : Word) (n : Nat) : Operand := ⟨⟨a.toNat, n⟩, false⟩

/-- RBLK: 64 binary64 values. -/
def rblk (a : Word) : Operand := ⟨⟨a.toNat, 512⟩, true⟩

/-- IBLK: 64 int8 values. -/
def iblk (a : Word) : Operand := ⟨⟨a.toNat, 64⟩, false⟩

/-- RPLANE(ph, pw). -/
def rplane (a : Word) (ph pw : Nat) : Operand := ⟨⟨a.toNat, 8 * ph * pw⟩, true⟩

/-- QPLANE(ph, pw): the padded int8 plane. -/
def qplaneOperand (a : Word) (ph pw : Nat) : Operand := ⟨⟨a.toNat, pad8 ph * pad8 pw⟩, false⟩

/-- RASTER(h, w). -/
def raster (a : Word) (h w : Nat) : Operand := ⟨⟨a.toNat, 3 * h * w⟩, false⟩

/-- VEC(h, w): the vector list. -/
def vecList (a : Word) (h w : Nat) : Operand := ⟨⟨a.toNat, 2 * ceilDiv h 8 * ceilDiv w 8⟩, false⟩

/-- The stream region from a cursor up to an end, [lo, hi): the input stream's [INP, IN_END) or the
output stream's [OUTP, OUT_END) (10_state.md R108). -/
def streamRegion (lo hi : Word) : Region := ⟨lo.toNat, hi.toNat - lo.toNat⟩

/-! ## What a command checks -/

/-- What the pre-checks of a command read (30_encoding.md R308): its operand words and the cursors it
uses, as regions and conditions. A field a command has no use for keeps its default. -/
structure Footprint where
  /-- The DIMS operand. -/
  dims    : Option Word := none
  /-- Argument legality holds. -/
  argOk   : Bool := true
  /-- The source regions the descriptor names. -/
  sources : List Operand := []
  /-- The destination regions the descriptor names. -/
  dests   : List Operand := []
  /-- The end of a SETIN or SETOUT. -/
  stop    : Option Word := none
  /-- The cursor pair the command uses, for the check of 40_control.md R404. -/
  cursors : Option (Word × Word) := none
  /-- The error of the stream limit check, where it fails (SPUT and SGET). -/
  limit   : Option ErrCode := none
  /-- The source region of the stream the command reads. -/
  streamSources : List Region := []
  /-- The destination region of the stream the command writes. -/
  streamDests   : List Region := []
deriving DecidableEq, Repr

/-- Every source region. -/
def Footprint.sourceRegions (f : Footprint) : List Region :=
  f.sources.map Operand.region ++ f.streamSources

/-- Every destination region, as the command's rule lists them. -/
def Footprint.destRegions (f : Footprint) : List Region :=
  f.dests.map Operand.region ++ f.streamDests

/-- Step 3 of R1303: the DIMS operand has h = 0 or w = 0. -/
def Footprint.badDims (f : Footprint) : Bool :=
  match f.dims with
  | none => false
  | some d => dimsH d == 0 || dimsW d == 0

/-- The operand's region ends at or before LMEM_SIZE, computed exactly (20_memory.md R213). -/
def Operand.inRange (size : Nat) (o : Operand) : Bool :=
  decide (o.region.base + o.region.len ≤ size)

/-- lo ≤ hi ≤ LMEM_SIZE: the cursor sanity check of 40_control.md R404. -/
def cursorsSane (size : Nat) (lo hi : Word) : Bool :=
  decide (lo.toNat ≤ hi.toNat) && decide (hi.toNat ≤ size)

/-- Step 5 of R1303: a region, a SETIN or SETOUT end, or a cursor pair fails. -/
def Footprint.badRange (size : Nat) (f : Footprint) : Bool :=
  !(f.sources ++ f.dests).all (Operand.inRange size) ||
  (match f.stop with
    | none => false
    | some e => decide (size < e.toNat)) ||
  (match f.cursors with
    | none => false
    | some (lo, hi) => !cursorsSane size lo hi)

/-- An f64 base is a multiple of 8 (20_memory.md R212). -/
def Operand.aligned (o : Operand) : Bool := !o.f64 || o.region.base % 8 == 0

/-- Step 6 of R1303. -/
def Footprint.badAlign (f : Footprint) : Bool :=
  !(f.sources ++ f.dests).all Operand.aligned

/-- Some region of the list overlaps a later one. -/
def someOverlap (rs : List Region) : Bool :=
  match rs with
  | [] => false
  | r :: rest => rest.any r.overlaps || someOverlap rest

/-- Step 8 of R1303: a destination overlaps a source or another destination (20_memory.md R214). -/
def Footprint.badOverlap (f : Footprint) : Bool :=
  f.destRegions.any (fun d => f.sourceRegions.any d.overlaps) || someOverlap f.destRegions

/-- The pre-checks, steps 3 to 8 of 60_exceptions.md R1303: the first error in that order. -/
def Footprint.firstError (size : Nat) (f : Footprint) : Option ErrCode :=
  if f.badDims then some .dims
  else if !f.argOk then some .arg
  else if f.badRange size then some .range
  else if f.badAlign then some .align
  else match f.limit with
    | some e => some e
    | none => if f.badOverlap then some .overlap else none

/-! ## Running a command -/

/-- The checks and the execution of a command (40_control.md R400). `body` gives the state with the
command's LMEM writes and new cursor values, or the error that arises while it computes. A pre-check
error changes nothing but the error state; an execution-time error also leaves every byte of the
destination regions unspecified (60_exceptions.md R1304); otherwise the command completes. -/
def runCommand (f : Footprint) (body : State → Except ErrCode State) (s : State) :
    Host.Outcome State Fault Refusal :=
  match f.firstError s.params.lmemSize with
  | some e => .next (errorHalt e s)
  | none =>
    match body s with
    | .error e => .next (errorHalt e (unspecify s f.destRegions))
    | .ok s' => .next (complete s')

/-! ## Sequences of elements in LMEM -/

/-- The binary64 elements of an RBLK. -/
def readBlock (s : State) (a : Nat) : List F64 :=
  (List.range' 0 64).map fun k => readF64 s (a + 8 * k)

/-- Sample (r, c) of a real plane of `cols` columns at `base` (20_memory.md R204). -/
def planeSample (s : State) (base cols r c : Nat) : F64 := readF64 s (base + 8 * (r * cols + c))

end Sys2Proof.Machine
end

