-- ==== Sys2Proof/Machine/Color.lean ====
section
/-! DEFINITION. Colour conversion: CSCF, CSCI (41_color.md). -/

namespace Sys2Proof.Machine

/-! ## One pixel -/

/-- 128.0, the chroma offset (R500). -/
def chromaOffset : F64 := f64OfInt 128

/-- The f64 of a u8. -/
def f64OfByte (b : Byte) : F64 := f64OfInt b.toNat

/-- Y of a pixel (R501). -/
def yOfRgb (k : Csc) (r g b : F64) : F64 :=
  fadd (fadd (fmul k.yr r) (fmul k.yg g)) (fmul k.yb b)

/-- Cb of a pixel (R501). -/
def cbOfRgb (k : Csc) (r g b : F64) : F64 :=
  fadd (fadd (fadd (fmul k.br r) (fmul k.bg g)) (fmul k.bb b)) chromaOffset

/-- Cr of a pixel (R501). -/
def crOfRgb (k : Csc) (r g b : F64) : F64 :=
  fadd (fadd (fadd (fmul k.rr r) (fmul k.rg g)) (fmul k.rb b)) chromaOffset

/-- R of a sample triple, before toU8 (R502). -/
def redOf (k : Csc) (y cr : F64) : F64 := fadd y (fmul k.rCr (fsub cr chromaOffset))

/-- G of a sample triple, before toU8 (R502). -/
def greenOf (k : Csc) (y cb cr : F64) : F64 :=
  fsub (fsub y (fmul k.gCb (fsub cb chromaOffset))) (fmul k.gCr (fsub cr chromaOffset))

/-- B of a sample triple, before toU8 (R502). -/
def blueOf (k : Csc) (y cb : F64) : F64 := fadd y (fmul k.bCb (fsub cb chromaOffset))

/-- The byte of a channel; none where toU8 raises E_NUMERIC (00_scope.md R21). -/
def channelByte (x : F64) : Option Byte := (toU8 x).map byteOfInt

/-- ycc2rgb: the three bytes of a pixel (R502). -/
def rgbOfYcc (k : Csc) (y cb cr : F64) : Option (List Byte) :=
  allSome [channelByte (redOf k y cr), channelByte (greenOf k y cb cr), channelByte (blueOf k y cb)]

/-! ## Planes -/

/-- The plane that `f` of R, G, B makes of an h by w raster at `src` (R510, 20_memory.md R205). -/
def planeOfRaster (s : State) (src h w : Nat) (f : F64 → F64 → F64 → F64) : List F64 :=
  grid h w fun r c =>
    let p := src + 3 * (r * w + c)
    f (f64OfByte (readByte s p)) (f64OfByte (readByte s (p + 1))) (f64OfByte (readByte s (p + 2)))

/-- The raster bytes of three h by w planes; none where a channel is a NaN (R511). -/
def rasterOfPlanes (s : State) (y cb cr h w : Nat) : Option (List Byte) :=
  (allSome (grid h w fun r c =>
    rgbOfYcc s.params.csc (planeSample s y w r c) (planeSample s cb w r c)
      (planeSample s cr w r c))).map List.flatten

/-- CSCF's regions (R510). -/
def cscfFootprint (src y cb cr dims : Word) : Footprint :=
  let h := dimsH dims
  let w := dimsW dims
  { dims := some dims
    sources := [raster src h w]
    dests := [rplane y h w, rplane cb h w, rplane cr h w] }

/-- CSCI's regions (R511). -/
def csciFootprint (y cb cr dst dims : Word) : Footprint :=
  let h := dimsH dims
  let w := dimsW dims
  { dims := some dims
    sources := [rplane y h w, rplane cb h w, rplane cr h w]
    dests := [raster dst h w] }

/-! ## Meanings -/

/-- CSCF (R510). -/
def execCscf (src y cb cr dims : Word) (s : State) : Host.Outcome State Fault Refusal :=
  runCommand (cscfFootprint src y cb cr dims)
    (fun s =>
      let plane := planeOfRaster s src.toNat (dimsH dims) (dimsW dims)
      let s1 := writeF64s s y.toNat (plane (yOfRgb s.params.csc))
      let s2 := writeF64s s1 cb.toNat (plane (cbOfRgb s.params.csc))
      .ok (writeF64s s2 cr.toNat (plane (crOfRgb s.params.csc)))) s

/-- CSCI (R511). -/
def execCsci (y cb cr dst dims : Word) (s : State) : Host.Outcome State Fault Refusal :=
  runCommand (csciFootprint y cb cr dst dims)
    (fun s =>
      match rasterOfPlanes s y.toNat cb.toNat cr.toNat (dimsH dims) (dimsW dims) with
      | none => .error .numeric
      | some bytes => .ok (writeBytes s dst.toNat bytes)) s

end Sys2Proof.Machine
end

