-- ==== Sys2Proof/Machine/Control.lean ====
section
/-! DEFINITION. NOP, HALT, SETIN, SETOUT, SPUT, SGET (40_control.md R410 to R415). -/

namespace Sys2Proof.Machine

/-! ## Cursor updates (40_control.md R403) -/

/-- A cursor moved on by n bytes. -/
def cursorPlus (cursor : Word) (n : Nat) : Word := BitVec.ofNat 32 (cursor.toNat + n)

/-- The input stream set to [addr, stop). -/
def setInput (addr stop : Word) (s : State) : State := { s with inp := addr, inEnd := stop }

/-- The output stream set to [addr, stop). -/
def setOutput (addr stop : Word) (s : State) : State := { s with outp := addr, outEnd := stop }

/-- INP moved past n consumed bytes. -/
def advanceInput (n : Nat) (s : State) : State := { s with inp := cursorPlus s.inp n }

/-- OUTP moved past n written bytes. -/
def advanceOutput (n : Nat) (s : State) : State := { s with outp := cursorPlus s.outp n }

/-! ## What each checks -/

/-- SETIN and SETOUT: addr > end is E_ARG, end > LMEM_SIZE is E_RANGE (R412, R413). -/
def setFootprint (addr stop : Word) : Footprint :=
  { argOk := decide (addr.toNat ≤ stop.toNat), stop := some stop }

/-- SPUT: source [src, src+n), destination [OUTP, OUTP+n), E_OVERFLOW past OUT_END (R414). -/
def sputFootprint (src n : Word) (s : State) : Footprint :=
  { sources := [bytesOperand src n.toNat]
    cursors := some (s.outp, s.outEnd)
    limit := if s.outEnd.toNat < s.outp.toNat + n.toNat then some .overflow else none
    streamDests := [⟨s.outp.toNat, n.toNat⟩] }

/-- SGET: destination [dst, dst+n), source [INP, INP+n), E_MALFORMED past IN_END (R415). -/
def sgetFootprint (dst n : Word) (s : State) : Footprint :=
  { dests := [bytesOperand dst n.toNat]
    cursors := some (s.inp, s.inEnd)
    limit := if s.inEnd.toNat < s.inp.toNat + n.toNat then some .malformed else none
    streamSources := [⟨s.inp.toNat, n.toNat⟩] }

/-! ## Meanings -/

/-- NOP (R410). -/
def execNop (s : State) : Host.Outcome State Fault Refusal :=
  runCommand {} .ok s

/-- HALT (R411). -/
def execHalt (s : State) : Host.Outcome State Fault Refusal :=
  .next (completeHalt s)

/-- SETIN (R412). -/
def execSetin (addr stop : Word) (s : State) : Host.Outcome State Fault Refusal :=
  runCommand (setFootprint addr stop) (fun s => .ok (setInput addr stop s)) s

/-- SETOUT (R413). -/
def execSetout (addr stop : Word) (s : State) : Host.Outcome State Fault Refusal :=
  runCommand (setFootprint addr stop) (fun s => .ok (setOutput addr stop s)) s

/-- SPUT (R414). -/
def execSput (src n : Word) (s : State) : Host.Outcome State Fault Refusal :=
  runCommand (sputFootprint src n s)
    (fun s => .ok (advanceOutput n.toNat
      (writeBytes s s.outp.toNat (readBytes s src.toNat n.toNat)))) s

/-- SGET (R415). -/
def execSget (dst n : Word) (s : State) : Host.Outcome State Fault Refusal :=
  runCommand (sgetFootprint dst n s)
    (fun s => .ok (advanceInput n.toNat
      (writeBytes s dst.toNat (readBytes s s.inp.toNat n.toNat)))) s

end Sys2Proof.Machine
end

