-- ==== Sys2Proof/Machine/Flags.lean ====
section
/-! DEFINITION. The CORE has no flags and no condition codes (10_state.md R100). Its status bits are
STATUS and IRQ_EN (R104), its error code ERR_CODE (60_exceptions.md R1302), and its one output
computed from them is irq (R1320). -/

namespace Sys2Proof.Machine

/-- The code of an error, 0..10 (60_exceptions.md R1302). -/
def ErrCode.code : ErrCode → BitVec 8
  | .none => 0
  | .opcode => 1
  | .rsvd => 2
  | .dims => 3
  | .range => 4
  | .align => 5
  | .overlap => 6
  | .arg => 7
  | .malformed => 8
  | .overflow => 9
  | .numeric => 10

/-- The error a decoding rejection raises (30_encoding.md R307). A fetched descriptor has 32 bytes,
so `length` never arises in a step. -/
def errCodeOfDecode : DecodeError → ErrCode
  | .opcode => .opcode
  | .reserved => .rsvd
  | .length => .rsvd

/-- The STATUS register: BUSY in bit 0, DONE in bit 1, ERR in bit 2, the rest 0 (10_state.md R104). -/
def statusWord (s : State) : Word :=
  (0#29) ++ BitVec.ofBool s.err ++ BitVec.ofBool s.done ++ BitVec.ofBool s.busy

/-- The IRQ_EN register: DONE_IE in bit 1, ERR_IE in bit 2, the rest 0 (10_state.md R104). -/
def irqEnWord (s : State) : Word :=
  (0#29) ++ BitVec.ofBool s.errIe ++ BitVec.ofBool s.doneIe ++ (0#1)

/-- The ERR_CODE register: CODE in bits 7:0, the rest 0 (10_state.md R104). -/
def errCodeWord (s : State) : Word := (0#24) ++ s.errCode.code

/-- The irq output, a level (60_exceptions.md R1320). -/
def irq (s : State) : Bool := (s.done && s.doneIe) || (s.err && s.errIe)

end Sys2Proof.Machine
end

