-- ==== Sys2Proof/Machine/Motion.lean ====
section
/-! DEFINITION. Motion estimation and compensation: ME, PSUB, PADD and the `.C` forms of the last two
(47_motion.md). -/

namespace Sys2Proof.Machine

/-! ## Macroblocks (R1102, R1103) -/

/-- A macroblock's extent: its first row and column, and how many rows and columns it has. -/
structure Macroblock where
  r0 : Nat
  c0 : Nat
  bh : Nat
  bw : Nat
deriving DecidableEq, Repr

/-- Macroblock (mr, mc) of an h by w frame (R1102). -/
def macroblock (h w mr mc : Nat) : Macroblock :=
  { r0 := 8 * mr, c0 := 8 * mc, bh := min 8 (h - 8 * mr), bw := min 8 (w - 8 * mc) }

/-- The displaced extent lies inside the reference plane (R1103). -/
def candidateValid (h w : Nat) (m : Macroblock) (dx dy : Int) : Bool :=
  decide (0 ≤ m.r0 + dy) && decide (0 ≤ m.c0 + dx) &&
    decide (m.r0 + dy + m.bh ≤ h) && decide (m.c0 + dx + m.bw ≤ w)

/-! ## Search (R1105, R1106) -/

/-- The score of a candidate: the sum of absolute differences, row-major, in binary64 (R1105). The
planes are given as functions of row and column. -/
def sad (tgt ref : Nat → Nat → F64) (m : Macroblock) (dx dy : Int) : F64 :=
  (grid m.bh m.bw fun x y =>
    fabs (fsub (tgt (m.r0 + x) (m.c0 + y))
      (ref (m.r0 + dy + x).toNat (m.c0 + dx + y).toNat))).foldl fadd f64Zero

/-- The eight neighbours (oy, ox), in the order they are visited (R1106). -/
def neighbours : List (Int × Int) :=
  [(-1, -1), (-1, 0), (-1, 1), (0, -1), (0, 1), (1, -1), (1, 0), (1, 1)]

/-- The best candidate so far and its score. -/
structure Best where
  dx    : Int
  dy    : Int
  score : F64
deriving DecidableEq, Repr

/-- One candidate of a round: it becomes the best if it is valid and scores strictly lower (R1106). -/
def tryCandidate (h w : Nat) (tgt ref : Nat → Nat → F64) (m : Macroblock) (best : Best)
    (dx dy : Int) : Best :=
  if candidateValid h w m dx dy then
    (let d := sad tgt ref m dx dy
     if flt d best.score then ⟨dx, dy, d⟩ else best)
  else best

/-- One round at step `step` around the center (cx, cy): the vector it adopts (R1106). -/
def searchRound (h w : Nat) (tgt ref : Nat → Nat → F64) (m : Macroblock) (step : Nat)
    (center : Int × Int) : Int × Int :=
  let start : Best := ⟨center.1, center.2, sad tgt ref m center.1 center.2⟩
  let best := neighbours.foldl
    (fun best o => tryCandidate h w tgt ref m best (center.1 + o.2 * step) (center.2 + o.1 * step))
    start
  (best.dx, best.dy)

/-- The steps of the rounds from step s on: s, ceil_div(s, 2), …, down to 1 (R1106). `fuel` bounds
their number; s itself is always enough. -/
def searchSteps (fuel s : Nat) : List Nat :=
  match fuel with
  | 0 => []
  | fuel + 1 => if s ≤ 1 then [s] else s :: searchSteps fuel (ceilDiv s 2)

/-- The logarithmic search of radius R: the vector (dx, dy) of a macroblock (R1106). -/
def searchVector (h w : Nat) (tgt ref : Nat → Nat → F64) (m : Macroblock) (radius : Nat) :
    Int × Int :=
  if radius = 0 then (0, 0)
  else
    (searchSteps (ceilDiv radius 2) (ceilDiv radius 2)).foldl
      (fun center step => searchRound h w tgt ref m step center) (0, 0)

/-- The vectors of all macroblocks, row-major (R1110). -/
def searchAll (s : State) (ref tgt h w radius : Nat) : List (Int × Int) :=
  grid (ceilDiv h 8) (ceilDiv w 8) fun mr mc =>
    searchVector h w (planeSample s tgt w) (planeSample s ref w) (macroblock h w mr mc) radius

/-- The bytes of a vector list: dx, then dy (20_memory.md R211). -/
def vectorBytes (vs : List (Int × Int)) : List Byte :=
  vs.flatMap fun v => [byteOfInt v.1, byteOfInt v.2]

/-- The luma residual, row by row: each sample less the reference sample its macroblock's vector
points at (R1107). -/
def lumaResidual (s : State) (ref tgt h w : Nat) (vs : List (Int × Int)) : List F64 :=
  grid h w fun r c =>
    let v := vs.getD (r / 8 * ceilDiv w 8 + c / 8) (0, 0)
    fsub (planeSample s tgt w r c) (planeSample s ref w (r + v.2).toNat (c + v.1).toNat)

/-! ## Prediction (R1109) -/

/-- The prediction of sample (r, c) of a ph by pw plane: the vector of macroblock
(r div 8)·MBC + c div 8 applied to the plane's own coordinates, each coordinate clamped (R1109). -/
def prediction (s : State) (ref vec ph pw mbc r c : Nat) : F64 :=
  let m := r / 8 * mbc + c / 8
  let dx := readI8 s (vec + 2 * m)
  let dy := readI8 s (vec + 2 * m + 1)
  planeSample s ref pw (clampInt (r + dy) 0 ((ph : Int) - 1)).toNat
    (clampInt (c + dx) 0 ((pw : Int) - 1)).toNat

/-- The plane that `f` makes of each sample of a ph by pw plane at `base` and its prediction. -/
def compensate (f : F64 → F64 → F64) (s : State) (base ref vec ph pw mbc : Nat) : List F64 :=
  grid ph pw fun r c => f (planeSample s base pw r c) (prediction s ref vec ph pw mbc r c)

/-! ## Checks -/

/-- ME's regions and argument check (R1110). -/
def meFootprint (ref tgt vec res dims radius : Word) : Footprint :=
  let h := dimsH dims
  let w := dimsW dims
  { dims := some dims
    argOk := decide (radius.toNat ≤ 128)
    sources := [rplane ref h w, rplane tgt h w]
    dests := [vecList vec h w, rplane res h w] }

/-- The regions of PSUB and PADD; the vector list is the frame's (R1111, R1112). -/
def compensateFootprint (c : Bool) (base ref vec dst dims : Word) : Footprint :=
  { dims := some dims
    sources := [rplane base (planeRows c dims) (planeCols c dims),
      rplane ref (planeRows c dims) (planeCols c dims), vecList vec (dimsH dims) (dimsW dims)]
    dests := [rplane dst (planeRows c dims) (planeCols c dims)] }

/-! ## Meanings -/

/-- ME (R1110). -/
def execMe (ref tgt vec res dims radius : Word) (s : State) : Host.Outcome State Fault Refusal :=
  runCommand (meFootprint ref tgt vec res dims radius)
    (fun s =>
      let vs := searchAll s ref.toNat tgt.toNat (dimsH dims) (dimsW dims) radius.toNat
      let s1 := writeBytes s vec.toNat (vectorBytes vs)
      .ok (writeF64s s1 res.toNat
        (lumaResidual s ref.toNat tgt.toNat (dimsH dims) (dimsW dims) vs))) s

/-- Both forms of PSUB and PADD: `f` is fsub or fadd (R1111, R1112). -/
def compensateCommand (f : F64 → F64 → F64) (c : Bool) (base ref vec dst dims : Word) (s : State) :
    Host.Outcome State Fault Refusal :=
  runCommand (compensateFootprint c base ref vec dst dims)
    (fun s => .ok (writeF64s s dst.toNat
      (compensate f s base.toNat ref.toNat vec.toNat (planeRows c dims) (planeCols c dims)
        (ceilDiv (dimsW dims) 8)))) s

/-- PSUB (R1111). -/
def execPsub (tgt ref vec dst dims : Word) (s : State) : Host.Outcome State Fault Refusal :=
  compensateCommand fsub false tgt ref vec dst dims s

/-- PSUB.C (R1111). -/
def execPsubC (tgt ref vec dst dims : Word) (s : State) : Host.Outcome State Fault Refusal :=
  compensateCommand fsub true tgt ref vec dst dims s

/-- PADD (R1112). -/
def execPadd (res ref vec dst dims : Word) (s : State) : Host.Outcome State Fault Refusal :=
  compensateCommand fadd false res ref vec dst dims s

/-- PADD.C (R1112). -/
def execPaddC (res ref vec dst dims : Word) (s : State) : Host.Outcome State Fault Refusal :=
  compensateCommand fadd true res ref vec dst dims s

end Sys2Proof.Machine
end

