-- ==== Sys2Proof/Machine/Transform.lean ====
section
/-! DEFINITION. The 8×8 block transform: FDCT, IDCT (43_transform.md). Sums run in the order written
and round at every step (00_scope.md R18). -/

namespace Sys2Proof.Machine

/-- The sum of a list, from +0.0, one fadd after another (R702, R703). -/
def fsum (terms : List F64) : F64 := terms.foldl fadd f64Zero

/-- Element (row, col) of a block of 64 values in natural order (20_memory.md R206). -/
def blockEntry (block : List F64) (row col : Nat) : F64 := block.getD (8 * row + col) f64Zero

/-- F[u][v] of the forward transform (R702). -/
def fdctEntry (f : List F64) (u v : Nat) : F64 :=
  fmul (fmul (fmul quarter (cScale u)) (cScale v))
    (fsum (grid 8 8 fun x y => fmul (fmul (blockEntry f x y) (cosEntry x u)) (cosEntry y v)))

/-- fdct (R702). -/
def fdctBlock (f : List F64) : List F64 := grid 8 8 (fdctEntry f)

/-- f[x][y] of the inverse transform (R703). -/
def idctEntry (coeffs : List F64) (x y : Nat) : F64 :=
  fmul quarter
    (fsum (grid 8 8 fun u v =>
      fmul (fmul (fmul (fmul (cScale u) (cScale v)) (blockEntry coeffs u v)) (cosEntry x u))
        (cosEntry y v)))

/-- idct (R703). -/
def idctBlock (coeffs : List F64) : List F64 := grid 8 8 (idctEntry coeffs)

/-- The regions of FDCT and IDCT (R710, R711). -/
def transformFootprint (src dst : Word) : Footprint :=
  { sources := [rblk src], dests := [rblk dst] }

/-- FDCT (R710). -/
def execFdct (src dst : Word) (s : State) : Host.Outcome State Fault Refusal :=
  runCommand (transformFootprint src dst)
    (fun s => .ok (writeF64s s dst.toNat (fdctBlock (readBlock s src.toNat)))) s

/-- IDCT (R711). -/
def execIdct (src dst : Word) (s : State) : Host.Outcome State Fault Refusal :=
  runCommand (transformFootprint src dst)
    (fun s => .ok (writeF64s s dst.toNat (idctBlock (readBlock s src.toNat)))) s

end Sys2Proof.Machine
end

