-- ==== Sys2Proof/Machine/Quantizer.lean ====
section
/-! DEFINITION. The quantizer: QUANT, DEQUANT, QPLANE, DQPLANE and their `.C` forms (44_quantizer.md). -/

namespace Sys2Proof.Machine

/-! ## Tables -/

/-- The table a quantizer command uses: QTAB_LUMA for C = 0, QTAB_CHROMA for C = 1 (R802). -/
def quantTable (c : Bool) (s : State) : List Byte :=
  if c then s.params.qtabChroma else s.params.qtabLuma

/-- f64(T[k]) (R803, R805). -/
def tableEntry (table : List Byte) (k : Nat) : F64 := f64OfInt (table.getD k 1).toNat

/-! ## Blocks -/

/-- The quantized coefficient k of transformed values; none where toI8 raises E_NUMERIC (R803). -/
def quantEntry (table : List Byte) (coeffs : List F64) (k : Nat) : Option Byte :=
  (toI8 (fdiv (coeffs.getD k f64Zero) (tableEntry table k))).map byteOfInt

/-- quantBlock: fdct, then an elementwise division and conversion (R803, R804). -/
def quantBlock (table : List Byte) (f : List F64) : Option (List Byte) :=
  let coeffs := fdctBlock f
  allSome ((List.range' 0 64).map fun k => quantEntry table coeffs k)

/-- dequantBlock: an elementwise multiplication, then idct (R805). -/
def dequantBlock (table : List Byte) (q : List Byte) : List F64 :=
  idctBlock ((List.range' 0 64).map fun k =>
    fmul (f64OfInt (sext8 (q.getD k 0))) (tableEntry table k))

/-! ## Planes -/

/-- The 64 samples of block (bi, bj) of a ph by pw plane at `src`, virtually padded by edge
replication (R808). -/
def paddedBlock (s : State) (src ph pw bi bj : Nat) : List F64 :=
  grid 8 8 fun x y =>
    planeSample s src pw (min (8 * bi + x) (ph - 1)) (min (8 * bj + y) (pw - 1))

/-- The 64 coefficients of block (bi, bj) of a padded int8 plane with PW columns at `src`
(20_memory.md R207). -/
def codedBlock (s : State) (src cols bi bj : Nat) : List Byte :=
  (List.range' 0 64).map fun k => readByte s (src + (8 * bi + k / 8) * cols + 8 * bj + k % 8)

/-- The element at row r, column c of an array tiled into 8×8 blocks, `tiles` blocks a row, the
blocks given in row-major tile order (R809). -/
def untile {α : Type} (blocks : List (List α)) (tiles : Nat) (zero : α) (r c : Nat) : α :=
  (blocks.getD (r / 8 * tiles + c / 8) []).getD (8 * (r % 8) + c % 8) zero

/-- The quantized padded plane of a ph by pw plane, PH·PW bytes row by row (R812); none where a
quotient is a NaN. -/
def quantPlane (table : List Byte) (s : State) (src ph pw : Nat) : Option (List Byte) :=
  let tiles := pad8 pw / 8
  (allSome (grid (pad8 ph / 8) tiles fun bi bj =>
    quantBlock table (paddedBlock s src ph pw bi bj))).map fun blocks =>
      grid (pad8 ph) (pad8 pw) (untile blocks tiles 0)

/-- The ph by pw real plane of a padded int8 plane, row by row; samples in the padding are discarded
(R813). -/
def dequantPlane (table : List Byte) (s : State) (src ph pw : Nat) : List F64 :=
  let tiles := pad8 pw / 8
  let blocks := grid (pad8 ph / 8) tiles fun bi bj =>
    dequantBlock table (codedBlock s src (pad8 pw) bi bj)
  grid ph pw (untile blocks tiles f64Zero)

/-! ## Checks -/

/-- QUANT's regions (R810). -/
def quantFootprint (src dst : Word) : Footprint :=
  { sources := [rblk src], dests := [iblk dst] }

/-- DEQUANT's regions (R811). -/
def dequantFootprint (src dst : Word) : Footprint :=
  { sources := [iblk src], dests := [rblk dst] }

/-- QPLANE's regions (R812). -/
def qplaneFootprint (c : Bool) (src dst dims : Word) : Footprint :=
  { dims := some dims
    sources := [rplane src (planeRows c dims) (planeCols c dims)]
    dests := [qplaneOperand dst (planeRows c dims) (planeCols c dims)] }

/-- DQPLANE's regions (R813). -/
def dqplaneFootprint (c : Bool) (src dst dims : Word) : Footprint :=
  { dims := some dims
    sources := [qplaneOperand src (planeRows c dims) (planeCols c dims)]
    dests := [rplane dst (planeRows c dims) (planeCols c dims)] }

/-! ## Meanings -/

/-- Both forms of QUANT (R810). -/
def quantCommand (c : Bool) (src dst : Word) (s : State) : Host.Outcome State Fault Refusal :=
  runCommand (quantFootprint src dst)
    (fun s =>
      match quantBlock (quantTable c s) (readBlock s src.toNat) with
      | none => .error .numeric
      | some q => .ok (writeBytes s dst.toNat q)) s

/-- Both forms of DEQUANT (R811). -/
def dequantCommand (c : Bool) (src dst : Word) (s : State) : Host.Outcome State Fault Refusal :=
  runCommand (dequantFootprint src dst)
    (fun s => .ok (writeF64s s dst.toNat
      (dequantBlock (quantTable c s) (readBytes s src.toNat 64)))) s

/-- Both forms of QPLANE (R812). -/
def qplaneCommand (c : Bool) (src dst dims : Word) (s : State) :
    Host.Outcome State Fault Refusal :=
  runCommand (qplaneFootprint c src dst dims)
    (fun s =>
      match quantPlane (quantTable c s) s src.toNat (planeRows c dims) (planeCols c dims) with
      | none => .error .numeric
      | some q => .ok (writeBytes s dst.toNat q)) s

/-- Both forms of DQPLANE (R813). -/
def dqplaneCommand (c : Bool) (src dst dims : Word) (s : State) :
    Host.Outcome State Fault Refusal :=
  runCommand (dqplaneFootprint c src dst dims)
    (fun s => .ok (writeF64s s dst.toNat
      (dequantPlane (quantTable c s) s src.toNat (planeRows c dims) (planeCols c dims)))) s

/-- QUANT (R810). -/
def execQuant (src dst : Word) (s : State) : Host.Outcome State Fault Refusal :=
  quantCommand false src dst s

/-- QUANT.C (R810). -/
def execQuantC (src dst : Word) (s : State) : Host.Outcome State Fault Refusal :=
  quantCommand true src dst s

/-- DEQUANT (R811). -/
def execDequant (src dst : Word) (s : State) : Host.Outcome State Fault Refusal :=
  dequantCommand false src dst s

/-- DEQUANT.C (R811). -/
def execDequantC (src dst : Word) (s : State) : Host.Outcome State Fault Refusal :=
  dequantCommand true src dst s

/-- QPLANE (R812). -/
def execQplane (src dst dims : Word) (s : State) : Host.Outcome State Fault Refusal :=
  qplaneCommand false src dst dims s

/-- QPLANE.C (R812). -/
def execQplaneC (src dst dims : Word) (s : State) : Host.Outcome State Fault Refusal :=
  qplaneCommand true src dst dims s

/-- DQPLANE (R813). -/
def execDqplane (src dst dims : Word) (s : State) : Host.Outcome State Fault Refusal :=
  dqplaneCommand false src dst dims s

/-- DQPLANE.C (R813). -/
def execDqplaneC (src dst dims : Word) (s : State) : Host.Outcome State Fault Refusal :=
  dqplaneCommand true src dst dims s

end Sys2Proof.Machine
end

