-- ==== Sys2Proof/Machine/Subsample.lean ====
section
/-! DEFINITION. Chroma subsampling: SUBS, UPS (42_subsample.md). -/

namespace Sys2Proof.Machine

/-- The decimated plane of an h by w plane at `src` (R601), bit for bit. -/
def decimate (s : State) (src h w : Nat) : List F64 :=
  grid (ceilDiv h 2) (ceilDiv w 2) fun r c => planeSample s src w (2 * r) (2 * c)

/-- The h by w replication of a decimated plane at `src` (R602), bit for bit. -/
def replicatePlane (s : State) (src h w : Nat) : List F64 :=
  grid h w fun r c => planeSample s src (ceilDiv w 2) (r / 2) (c / 2)

/-- SUBS's regions (R610). -/
def subsFootprint (src dst dims : Word) : Footprint :=
  { dims := some dims
    sources := [rplane src (dimsH dims) (dimsW dims)]
    dests := [rplane dst (ceilDiv (dimsH dims) 2) (ceilDiv (dimsW dims) 2)] }

/-- UPS's regions (R611). -/
def upsFootprint (src dst dims : Word) : Footprint :=
  { dims := some dims
    sources := [rplane src (ceilDiv (dimsH dims) 2) (ceilDiv (dimsW dims) 2)]
    dests := [rplane dst (dimsH dims) (dimsW dims)] }

/-- SUBS (R610). -/
def execSubs (src dst dims : Word) (s : State) : Host.Outcome State Fault Refusal :=
  runCommand (subsFootprint src dst dims)
    (fun s => .ok (writeF64s s dst.toNat (decimate s src.toNat (dimsH dims) (dimsW dims)))) s

/-- UPS (R611). -/
def execUps (src dst dims : Word) (s : State) : Host.Outcome State Fault Refusal :=
  runCommand (upsFootprint src dst dims)
    (fun s => .ok (writeF64s s dst.toNat (replicatePlane s src.toNat (dimsH dims) (dimsW dims)))) s

end Sys2Proof.Machine
end

