-- ==== Sys2Proof/Machine/ZeroRun.lean ====
section
/-! DEFINITION. The zero-run codec: ZRLE, ZRLD (46_zero_run.md). -/

namespace Sys2Proof.Machine

/-- The pair of a run that has ended; none for no run (R1001). -/
def runPair (run : Nat) : List Byte :=
  if run = 0 then [] else [0#8, BitVec.ofNat 8 run]

/-- zrlEncode with `run` zeros counted and not yet emitted (R1001). -/
def zrlEncodeFrom (run : Nat) : List Byte → List Byte
  | [] => runPair run
  | b :: rest =>
    if b = 0#8 then
      (if run + 1 = 255 then runPair 255 ++ zrlEncodeFrom 0 rest
      else zrlEncodeFrom (run + 1) rest)
    else runPair run ++ b :: zrlEncodeFrom 0 rest

/-- zrlEncode (R1001). -/
def zrlEncode (values : List Byte) : List Byte := zrlEncodeFrom 0 values

/-- zrlDecode of n values from the bytes up to the stream's end: the values and how many bytes were
consumed; none where it raises E_MALFORMED (R1003, R1004). -/
def zrlDecode (stream : List Byte) (n : Nat) : Option (List Byte × Nat) :=
  if n = 0 then some ([], 0)
  else
    match stream with
    | [] => none
    | b :: rest =>
      if b = 0#8 then
        match rest with
        | [] => none
        | c :: rest' =>
          if n < c.toNat then none
          else
            match zrlDecode rest' (n - c.toNat) with
            | none => none
            | some (values, used) => some (List.replicate c.toNat 0#8 ++ values, used + 2)
      else
        match zrlDecode rest (n - 1) with
        | none => none
        | some (values, used) => some (b :: values, used + 1)

/-- ZRLE: source [src, src+n), destination the whole free part of the output stream (R1010). -/
def zrleFootprint (src n : Word) (s : State) : Footprint :=
  { sources := [bytesOperand src n.toNat]
    cursors := some (s.outp, s.outEnd)
    streamDests := [streamRegion s.outp s.outEnd] }

/-- ZRLD: destination [dst, dst+n), source the whole unread part of the input stream (R1011). -/
def zrldFootprint (dst n : Word) (s : State) : Footprint :=
  { dests := [bytesOperand dst n.toNat]
    cursors := some (s.inp, s.inEnd)
    streamSources := [streamRegion s.inp s.inEnd] }

/-- ZRLE (R1010). -/
def execZrle (src n : Word) (s : State) : Host.Outcome State Fault Refusal :=
  runCommand (zrleFootprint src n s)
    (fun s =>
      let out := zrlEncode (readBytes s src.toNat n.toNat)
      if s.outEnd.toNat < s.outp.toNat + out.length then .error .overflow
      else .ok (advanceOutput out.length (writeBytes s s.outp.toNat out))) s

/-- ZRLD (R1011). -/
def execZrld (dst n : Word) (s : State) : Host.Outcome State Fault Refusal :=
  runCommand (zrldFootprint dst n s)
    (fun s =>
      match zrlDecode (readBytes s s.inp.toNat (s.inEnd.toNat - s.inp.toNat)) n.toNat with
      | none => .error .malformed
      | some (values, used) => .ok (advanceInput used (writeBytes s dst.toNat values))) s

end Sys2Proof.Machine
end

