-- ==== Sys2Proof/Machine/Zigzag.lean ====
section
/-! DEFINITION. Zigzag reordering: ZZ, UNZZ, SER, DESER and the `.C` forms of the last two
(45_zigzag.md). Bytes are moved unchanged. Both directions use the one table (R901). -/

namespace Sys2Proof.Machine

/-- The zigzag sequence of the block at `src`: entry j is the byte at src + ZZ[j] (R910). -/
def zigzagBlock (s : State) (src : Nat) : List Byte :=
  (List.range' 0 64).map fun j => readByte s (src + zzEntry j)

/-- The block of the zigzag sequence at `src`: the byte at natural index ZZ[j] is entry j (R911). -/
def unzigzagBlock (s : State) (src : Nat) : List Byte :=
  (List.range' 0 64).map fun k => readByte s (src + zzPosition k)

/-- The serialized plane at `src`, PH·PW entries: the tiles in row-major order, each in zigzag order
(R902, R912). -/
def serialize (s : State) (src ph pw : Nat) : List Byte :=
  (grid (pad8 ph / 8) (pad8 pw / 8) fun bi bj =>
    (List.range' 0 64).map fun j =>
      readByte s (src + (8 * bi + zzEntry j / 8) * pad8 pw + 8 * bj + zzEntry j % 8)).flatten

/-- The padded plane of the sequence at `src`, row by row: coefficient (r, c) is element
k = 8(r mod 8) + c mod 8 of tile t = (r div 8)·(PW/8) + c div 8, which is entry 64t + j with
ZZ[j] = k (R913). -/
def deserialize (s : State) (src ph pw : Nat) : List Byte :=
  grid (pad8 ph) (pad8 pw) fun r c =>
    readByte s (src + 64 * (r / 8 * (pad8 pw / 8) + c / 8) + zzPosition (8 * (r % 8) + c % 8))

/-- The regions of ZZ and UNZZ (R910, R911). -/
def zigzagFootprint (src dst : Word) : Footprint :=
  { sources := [iblk src], dests := [iblk dst] }

/-- SER's regions (R912). -/
def serFootprint (c : Bool) (src dst dims : Word) : Footprint :=
  { dims := some dims
    sources := [qplaneOperand src (planeRows c dims) (planeCols c dims)]
    dests := [bytesOperand dst (pad8 (planeRows c dims) * pad8 (planeCols c dims))] }

/-- DESER's regions (R913). -/
def deserFootprint (c : Bool) (src dst dims : Word) : Footprint :=
  { dims := some dims
    sources := [bytesOperand src (pad8 (planeRows c dims) * pad8 (planeCols c dims))]
    dests := [qplaneOperand dst (planeRows c dims) (planeCols c dims)] }

/-- ZZ (R910). -/
def execZz (src dst : Word) (s : State) : Host.Outcome State Fault Refusal :=
  runCommand (zigzagFootprint src dst)
    (fun s => .ok (writeBytes s dst.toNat (zigzagBlock s src.toNat))) s

/-- UNZZ (R911). -/
def execUnzz (src dst : Word) (s : State) : Host.Outcome State Fault Refusal :=
  runCommand (zigzagFootprint src dst)
    (fun s => .ok (writeBytes s dst.toNat (unzigzagBlock s src.toNat))) s

/-- Both forms of SER (R912). -/
def serCommand (c : Bool) (src dst dims : Word) (s : State) : Host.Outcome State Fault Refusal :=
  runCommand (serFootprint c src dst dims)
    (fun s => .ok (writeBytes s dst.toNat
      (serialize s src.toNat (planeRows c dims) (planeCols c dims)))) s

/-- Both forms of DESER (R913). -/
def deserCommand (c : Bool) (src dst dims : Word) (s : State) : Host.Outcome State Fault Refusal :=
  runCommand (deserFootprint c src dst dims)
    (fun s => .ok (writeBytes s dst.toNat
      (deserialize s src.toNat (planeRows c dims) (planeCols c dims)))) s

/-- SER (R912). -/
def execSer (src dst dims : Word) (s : State) : Host.Outcome State Fault Refusal :=
  serCommand false src dst dims s

/-- SER.C (R912). -/
def execSerC (src dst dims : Word) (s : State) : Host.Outcome State Fault Refusal :=
  serCommand true src dst dims s

/-- DESER (R913). -/
def execDeser (src dst dims : Word) (s : State) : Host.Outcome State Fault Refusal :=
  deserCommand false src dst dims s

/-- DESER.C (R913). -/
def execDeserC (src dst dims : Word) (s : State) : Host.Outcome State Fault Refusal :=
  deserCommand true src dst dims s

end Sys2Proof.Machine
end

