-- ==== Sys2Proof/Machine/HostPort.lean ====
section
/-! DEFINITION. The host's side: the register block and the LMEM window (10_state.md R102 to R118),
the resets (70_reset_and_hazards.md R1400, R1401), and the host's moves (R1404). -/

namespace Sys2Proof.Machine

/-! ## What a command checks, by command -/

/-- The footprint of a command in a state: what its meaning hands to `runCommand`. -/
def footprintOf (i : Instr) (s : State) : Footprint :=
  match i with
  | .nop => {}
  | .halt => {}
  | .setin addr stop => setFootprint addr stop
  | .setout addr stop => setFootprint addr stop
  | .sput src n => sputFootprint src n s
  | .sget dst n => sgetFootprint dst n s
  | .cscf src y cb cr dims => cscfFootprint src y cb cr dims
  | .csci y cb cr dst dims => csciFootprint y cb cr dst dims
  | .subs src dst dims => subsFootprint src dst dims
  | .ups src dst dims => upsFootprint src dst dims
  | .fdct src dst => transformFootprint src dst
  | .idct src dst => transformFootprint src dst
  | .quant src dst => quantFootprint src dst
  | .quantC src dst => quantFootprint src dst
  | .dequant src dst => dequantFootprint src dst
  | .dequantC src dst => dequantFootprint src dst
  | .qplane src dst dims => qplaneFootprint false src dst dims
  | .qplaneC src dst dims => qplaneFootprint true src dst dims
  | .dqplane src dst dims => dqplaneFootprint false src dst dims
  | .dqplaneC src dst dims => dqplaneFootprint true src dst dims
  | .zz src dst => zigzagFootprint src dst
  | .unzz src dst => zigzagFootprint src dst
  | .ser src dst dims => serFootprint false src dst dims
  | .serC src dst dims => serFootprint true src dst dims
  | .deser src dst dims => deserFootprint false src dst dims
  | .deserC src dst dims => deserFootprint true src dst dims
  | .zrle src n => zrleFootprint src n s
  | .zrld dst n => zrldFootprint dst n s
  | .me ref tgt vec res dims radius => meFootprint ref tgt vec res dims radius
  | .psub tgt ref vec dst dims => compensateFootprint false tgt ref vec dst dims
  | .psubC tgt ref vec dst dims => compensateFootprint true tgt ref vec dst dims
  | .padd res ref vec dst dims => compensateFootprint false res ref vec dst dims
  | .paddC res ref vec dst dims => compensateFootprint true res ref vec dst dims

/-! ## Resets -/

/-- The regions a soft reset leaves unspecified: the destinations of the command at CP, if the engine
is busy and that command would pass its checks, so that it may have begun to write (R1401). Log 6. -/
def abandonedRegions (s : State) : List Region :=
  if s.busy then
    match fetch s with
    | none => []
    | some d =>
      match decode d with
      | .error _ => []
      | .ok i =>
        match (footprintOf i s).firstError s.params.lmemSize with
        | some _ => []
        | none => (footprintOf i s).destRegions
  else []

/-- CTRL.SRST (R1401): the running command is abandoned, every register is reset, other LMEM is kept. -/
def softReset (s : State) : State := resetRegisters (unspecify s (abandonedRegions s))

/-- rst_n (R1400): every register is reset, every byte of LMEM is unspecified, no transaction is held.
What response an access gets that is held when rst_n falls is open: that it is dropped, never performed
and never answered, is the model's choice, log 10. -/
def hardReset (s : State) : State :=
  { resetRegisters s with
    lmem := []
    held := []
    lmemDraw := s.draws
    draws := s.draws + 1 }

/-! ## The register block (10_state.md R103, R104) -/

/-- The constant the ID register reads (R103). -/
def idValue : Word := 0x434D5001#32

/-- Register word j of a quantization table's window: entries 4j..4j+3, little-endian (R112). -/
def qtabWord (table : List Byte) (j : Nat) : Word := wordAt table (4 * j)

/-- A host read of CP, CMD_COUNT, INP or OUTP sees the current values when idle, and while busy those
of a freely drawn boundary that the running list has reached (R117). Log 7. -/
def seenBoundary (s : State) : Boundary :=
  if s.busy then
    s.boundaries.getD (Config.freeIndex s.draws % s.boundaries.length) (boundaryNow s)
  else boundaryNow s

/-- The offsets of the four registers that a busy read draws (R117). -/
def drawnOffset (off : Nat) : Bool := off == 0x014 || off == 0x01C || off == 0x020 || off == 0x028

/-- The value of the register at an aligned offset (R104); 0 at offsets the map does not list. -/
def regRead (s : State) (off : Nat) : Word :=
  if off = 0x000 then idValue
  else if off = 0x004 then 0
  else if off = 0x008 then statusWord s
  else if off = 0x00C then irqEnWord s
  else if off = 0x010 then s.clp
  else if off = 0x014 then (seenBoundary s).cp
  else if off = 0x018 then errCodeWord s
  else if off = 0x01C then (seenBoundary s).cmdCount
  else if off = 0x020 then (seenBoundary s).inp
  else if off = 0x024 then s.inEnd
  else if off = 0x028 then (seenBoundary s).outp
  else if off = 0x02C then s.outEnd
  else if off = 0x030 then BitVec.ofNat 32 s.params.lmemSize
  else if 0x100 ≤ off ∧ off < 0x140 then qtabWord s.params.qtabLuma ((off - 0x100) / 4)
  else if 0x140 ≤ off ∧ off < 0x180 then qtabWord s.params.qtabChroma ((off - 0x140) / 4)
  else 0

/-- A write to CTRL (R105): SRST, busy or idle; else START, when idle. -/
def writeCtrl (v : Word) (s : State) : State :=
  if v.getLsbD 1 then softReset s
  else if v.getLsbD 0 && !s.busy then startList s
  else s

/-- A write to STATUS clears DONE and ERR where it has a 1 (R104, W1C). -/
def writeStatus (v : Word) (s : State) : State :=
  { s with done := s.done && !v.getLsbD 1, err := s.err && !v.getLsbD 2 }

/-- A write to IRQ_EN (R104). -/
def writeIrqEn (v : Word) (s : State) : State :=
  { s with doneIe := v.getLsbD 1, errIe := v.getLsbD 2 }

/-- CLP with its hardwired bits 4:0 (R107). -/
def clpOf (v : Word) : Word := v &&& 0xFFFFFFE0#32

/-- A write to the register at an aligned offset (R104). While busy only CTRL, STATUS and IRQ_EN take
one (R116). -/
def regWrite (off : Nat) (v : Word) (s : State) : State :=
  if off = 0x004 then writeCtrl v s
  else if off = 0x008 then writeStatus v s
  else if off = 0x00C then writeIrqEn v s
  else if s.busy then s
  else if off = 0x010 then { s with clp := clpOf v }
  else if off = 0x020 then { s with inp := v }
  else if off = 0x024 then { s with inEnd := v }
  else if off = 0x028 then { s with outp := v }
  else if off = 0x02C then { s with outEnd := v }
  else s

/-! ## Host-port transactions -/

/-- The response leaves the port. Log 15. -/
def reply (r : Reply) (s : State) : State := { s with replies := r :: s.replies }

/-- An access to the register block reaches a register: 4 bytes at a multiple of 4 (R103). -/
def regAccessOk (r : HostReq) : Bool := r.size == 2#2 && r.addr.toNat % 4 == 0

/-- A transaction with the register block (R103). A busy read of a drawn register uses up one draw. -/
def regAccess (r : HostReq) (s : State) : State :=
  if r.we then
    reply .ack (if regAccessOk r then regWrite r.addr.toNat r.wdata s else s)
  else
    if regAccessOk r then
      let s' := reply (.data (regRead s r.addr.toNat)) s
      if s.busy && drawnOffset r.addr.toNat then { s' with draws := s.draws + 1 } else s'
    else reply (.data 0) s

/-- The host offset of LMEM byte 0 (R102). -/
def windowBase : Nat := 0x1000000

/-- The offset lies in the LMEM window (R102). -/
def inWindow (r : HostReq) (s : State) : Bool :=
  decide (windowBase ≤ r.addr.toNat) && decide (r.addr.toNat < windowBase + s.params.lmemSize)

/-- How many bytes an h_size asks for; size 3 is reserved (R101). Log 11. -/
def accessBytes (size : BitVec 2) : Option Nat :=
  if size = 0#2 then some 1
  else if size = 1#2 then some 2
  else if size = 2#2 then some 4
  else none

/-- How many bytes an LMEM access moves: none where it is of a reserved size, not naturally aligned,
or extends past LMEM_SIZE (R115). -/
def lmemAccessBytes (r : HostReq) (s : State) : Option Nat :=
  match accessBytes r.size with
  | none => none
  | some n =>
    let a := r.addr.toNat - windowBase
    if a % n = 0 ∧ a + n ≤ s.params.lmemSize then some n else none

/-- The n bytes at LMEM address a in the low bits of a word, the rest 0 (R101, 20_memory.md R201). -/
def lmemWord (s : State) (a n : Nat) : Word :=
  wordOfBytes (readByte s a) (if 2 ≤ n then readByte s (a + 1) else 0)
    (if 4 ≤ n then readByte s (a + 2) else 0) (if 4 ≤ n then readByte s (a + 3) else 0)

/-- An LMEM access, performed (R115). -/
def lmemAccess (r : HostReq) (s : State) : State :=
  let a := r.addr.toNat - windowBase
  match lmemAccessBytes r s with
  | none => reply (if r.we then .ack else .data 0) s
  | some n =>
    if r.we then reply .ack (writeBytes s a ((wordBytes r.wdata).take n))
    else reply (.data (lmemWord s a n)) s

/-- A host transaction (R101, R102). While rst_n = 0 it has no effect and a read returns 0
(70_reset_and_hazards.md R1400). An access to the LMEM window is held while busy (R118). An unmapped
offset reads 0 and ignores writes. -/
def hostAccess (r : HostReq) (s : State) : State :=
  if s.inReset then reply (if r.we then .ack else .data 0) s
  else if r.addr.toNat < 0x1000 then regAccess r s
  else if inWindow r s then
    (if s.busy then { s with held := s.held ++ [r] } else lmemAccess r s)
  else reply (if r.we then .ack else .data 0) s

/-- One move of the host other than `wait` (70_reset_and_hazards.md R1404). rst_n going to 0, and its
release to 1, enter the reset state (R1400). -/
def hostMove (m : HostMove) (s : State) : State :=
  match m with
  | .access r => hostAccess r s
  | .rstAssert => { hardReset s with inReset := true }
  | .rstRelease => if s.inReset then { hardReset s with inReset := false } else s
  | .wait => s

end Sys2Proof.Machine
end

