-- ==== Sys2Proof/Machine/Dispatch.lean ====
section
/-! DEFINITION. One arm per command: each calls its meaning. -/

namespace Sys2Proof.Machine

/-- The meaning of each command (30_encoding.md R306): its checks, its execution and its completion. -/
def exec (i : Instr) (s : State) : Host.Outcome State Fault Refusal :=
  match i with
  | .nop => Sys2Proof.Machine.execNop s
  | .halt => Sys2Proof.Machine.execHalt s
  | .setin addr stop => Sys2Proof.Machine.execSetin addr stop s
  | .setout addr stop => Sys2Proof.Machine.execSetout addr stop s
  | .sput src n => Sys2Proof.Machine.execSput src n s
  | .sget dst n => Sys2Proof.Machine.execSget dst n s
  | .cscf src y cb cr dims => Sys2Proof.Machine.execCscf src y cb cr dims s
  | .csci y cb cr dst dims => Sys2Proof.Machine.execCsci y cb cr dst dims s
  | .subs src dst dims => Sys2Proof.Machine.execSubs src dst dims s
  | .ups src dst dims => Sys2Proof.Machine.execUps src dst dims s
  | .fdct src dst => Sys2Proof.Machine.execFdct src dst s
  | .idct src dst => Sys2Proof.Machine.execIdct src dst s
  | .quant src dst => Sys2Proof.Machine.execQuant src dst s
  | .quantC src dst => Sys2Proof.Machine.execQuantC src dst s
  | .dequant src dst => Sys2Proof.Machine.execDequant src dst s
  | .dequantC src dst => Sys2Proof.Machine.execDequantC src dst s
  | .qplane src dst dims => Sys2Proof.Machine.execQplane src dst dims s
  | .qplaneC src dst dims => Sys2Proof.Machine.execQplaneC src dst dims s
  | .dqplane src dst dims => Sys2Proof.Machine.execDqplane src dst dims s
  | .dqplaneC src dst dims => Sys2Proof.Machine.execDqplaneC src dst dims s
  | .zz src dst => Sys2Proof.Machine.execZz src dst s
  | .unzz src dst => Sys2Proof.Machine.execUnzz src dst s
  | .ser src dst dims => Sys2Proof.Machine.execSer src dst dims s
  | .serC src dst dims => Sys2Proof.Machine.execSerC src dst dims s
  | .deser src dst dims => Sys2Proof.Machine.execDeser src dst dims s
  | .deserC src dst dims => Sys2Proof.Machine.execDeserC src dst dims s
  | .zrle src n => Sys2Proof.Machine.execZrle src n s
  | .zrld dst n => Sys2Proof.Machine.execZrld dst n s
  | .me ref tgt vec res dims radius => Sys2Proof.Machine.execMe ref tgt vec res dims radius s
  | .psub tgt ref vec dst dims => Sys2Proof.Machine.execPsub tgt ref vec dst dims s
  | .psubC tgt ref vec dst dims => Sys2Proof.Machine.execPsubC tgt ref vec dst dims s
  | .padd res ref vec dst dims => Sys2Proof.Machine.execPadd res ref vec dst dims s
  | .paddC res ref vec dst dims => Sys2Proof.Machine.execPaddC res ref vec dst dims s

end Sys2Proof.Machine
end

