-- ==== Sys2Proof/Machine/Step.lean ====
section
/-! DEFINITION. One step of the CORE (40_control.md R400) and of its host (00_scope.md R5). -/

namespace Sys2Proof.Machine

/-- The engine's step (40_control.md R400): fetch, decode, then check, execute and complete. When
idle it does nothing (60_exceptions.md R1344). -/
def engineStep (s : State) : Host.Outcome State Fault Refusal :=
  if s.busy then
    match fetch s with
    | none => .next (errorHalt .range s)
    | some d =>
      match decode d with
      | .error e => .next (errorHalt (errCodeOfDecode e) s)
      | .ok i => exec i s
  else .next s

/-- One step. A held LMEM access is performed as soon as BUSY = 0, the oldest first (10_state.md
R118, log 2). Otherwise the host's next move happens, and `wait`, or no move left, gives the step to
the engine (log 1). -/
def step (s : State) : Host.Outcome State Fault Refusal :=
  match s.busy, s.held with
  | false, r :: rest => .next (lmemAccess r { s with held := rest })
  | _, _ =>
    match s.inputs with
    | [] => engineStep s
    | .wait :: rest => engineStep { s with inputs := rest }
    | m :: rest => .next (hostMove m { s with inputs := rest })

/-- The state after k steps. A step that stopped would leave the state where it was; no step stops
(60_exceptions.md, log 12). -/
def stepsFrom (k : Nat) (s : State) : State :=
  match k with
  | 0 => s
  | k + 1 =>
    match step s with
    | .next t => stepsFrom k t
    | .fault _ => s
    | .refused _ => s

/-- Where `withFetchWord` puts the instruction: at CP, if a descriptor fits there, else at 0. -/
def fetchAddress (s : State) : Word :=
  if s.cp.toNat + 32 ≤ s.params.lmemSize then s.cp else 0

/-- The state with the given descriptor stored where the next step fetches and a list running there,
no host move before it: what a host does through the port before START (70_reset_and_hazards.md
R1403). Log 3. -/
def State.withFetchWord (s : State) (nbits w : Nat) : State :=
  { writeBytes s (fetchAddress s).toNat (numberBytes 32 (w % 2 ^ nbits)) with
    cp := fetchAddress s
    busy := true
    inReset := false
    inputs := [] }

end Sys2Proof.Machine
end

