-- ==== Sys2Proof/Safety.lean ====
section
/-! DEFINITION. What counts as a legal state, what a step leaves as it was, and the tables and loops of the
spec written out, in the terms the statements use. -/

namespace Sys2Proof.Machine

/-- Only the engine moves: the host has no move to make and no access is held. -/
def HostQuiet (s : State) : Prop := s.inputs = [] ∧ s.held = []

/-- LMEM is in its canonical form and lists addresses below LMEM_SIZE only (10_state.md R115). -/
def LmemLegal (s : State) : Prop :=
  s.lmem.wf = true ∧ ∀ cell ∈ s.lmem, cell.1 < s.params.lmemSize

/-- CLP and CP are multiples of 32 (10_state.md R107, R109). -/
def PointersAligned (s : State) : Prop := s.clp.toNat % 32 = 0 ∧ s.cp.toNat % 32 = 0

/-- STATUS and ERR_CODE are as a list leaves them: while busy both sticky bits are 0, at most one of
them is ever 1, ERR_CODE is 0 after a HALT and while busy, and not 0 while ERR is 1 (10_state.md R106,
R111; 60_exceptions.md R1321). -/
def StatusLegal (s : State) : Prop :=
  (s.busy = true → s.done = false ∧ s.err = false ∧ s.errCode = .none) ∧
  ¬ (s.done = true ∧ s.err = true) ∧
  (s.done = true → s.errCode = .none) ∧
  (s.err = true → s.errCode ≠ .none)

/-- The boundaries a busy read may see are those of the running list, one for each count of completed
commands from CMD_COUNT down to 0, the START's: the newest is the registers as they stand, and at count n
CP is CLP + 32n. An idle engine has none (10_state.md R117, R109). -/
def BoundariesLegal (s : State) : Prop :=
  (s.busy = true → s.boundaries.head? = some (boundaryNow s) ∧
    s.boundaries.map (fun b => b.cmdCount.toNat) = (List.range (s.cmdCount.toNat + 1)).reverse ∧
    ∀ b ∈ s.boundaries, b.cp = s.clp + 32 * b.cmdCount) ∧
  (s.busy = false → s.boundaries = [])

/-- CMD_COUNT counts the descriptors CP has passed, so it cannot wrap (10_state.md R110). -/
def CountLegal (s : State) : Prop := 32 * s.cmdCount.toNat ≤ s.cp.toNat

/-- While rst_n = 0 every register is at its reset value, the engine is idle, no access is held and no
byte of LMEM is known (70_reset_and_hazards.md R1400). -/
def ResetLegal (s : State) : Prop :=
  s.inReset = true →
    s.busy = false ∧ s.done = false ∧ s.err = false ∧ s.doneIe = false ∧ s.errIe = false ∧
    s.clp = 0 ∧ s.cp = 0 ∧ s.errCode = .none ∧ s.cmdCount = 0 ∧ s.inp = 0 ∧ s.inEnd = 0 ∧
    s.outp = 0 ∧ s.outEnd = 0 ∧ s.held = [] ∧ s.lmem = []

/-- The invariant every step keeps. -/
structure Legal (s : State) : Prop where
  params     : s.params.legal = true
  lmem       : LmemLegal s
  pointers   : PointersAligned s
  status     : StatusLegal s
  boundaries : BoundariesLegal s
  count      : CountLegal s
  reset      : ResetLegal s

/-! ## What a step leaves as it was -/

/-- Every register of 10_state.md R104 other than STATUS, ERR_CODE, CP, CMD_COUNT and the cursors, the
parameters, the port and the draw of LMEM are the same in both states. -/
def SameControl (s t : State) : Prop :=
  t.params = s.params ∧ t.doneIe = s.doneIe ∧ t.errIe = s.errIe ∧ t.clp = s.clp ∧
  t.inReset = s.inReset ∧ t.held = s.held ∧ t.inputs = s.inputs ∧ t.replies = s.replies ∧
  t.lmemDraw = s.lmemDraw

/-- The input stream's cursors are the same in both states. -/
def SameInput (s t : State) : Prop := t.inp = s.inp ∧ t.inEnd = s.inEnd

/-- The output stream's cursors are the same in both states. -/
def SameOutput (s t : State) : Prop := t.outp = s.outp ∧ t.outEnd = s.outEnd

/-- STATUS and ERR_CODE are the same in both states. -/
def SameStatus (s t : State) : Prop :=
  t.busy = s.busy ∧ t.done = s.done ∧ t.err = s.err ∧ t.errCode = s.errCode

/-- CP has advanced by 32 and CMD_COUNT by 1, modulo 2^32 (40_control.md R400). -/
def Advanced (s t : State) : Prop := t.cp = s.cp + 32 ∧ t.cmdCount = s.cmdCount + 1

/-- Every byte of LMEM outside [base, base + len) reads as before. -/
def SameBytesOutside (base len : Nat) (s t : State) : Prop :=
  ∀ a, a < base ∨ base + len ≤ a → readByte t a = readByte s a

/-- Every byte of LMEM reads as before. -/
def SameBytes (s t : State) : Prop := ∀ a, readByte t a = readByte s a

/-- Every byte of LMEM outside all the given regions reads as before. -/
def SameBytesOutsideRegions (rs : List Region) (s t : State) : Prop :=
  ∀ a, (∀ r ∈ rs, a < r.base ∨ r.base + r.len ≤ a) → readByte t a = readByte s a

/-- A command other than HALT completed (40_control.md R400): of all registers only CP, CMD_COUNT and
the cursors may have changed, and the new boundary joined those a busy read may see (10_state.md
R117). -/
structure Completed (s t : State) : Prop where
  control    : SameControl s t
  status     : SameStatus s t
  advanced   : Advanced s t
  boundaries : t.boundaries = boundaryNow t :: s.boundaries
  draws      : t.draws = s.draws

/-- A command completed that changed no register but CP and CMD_COUNT. -/
def CompletedQuietly (s t : State) : Prop := Completed s t ∧ SameInput s t ∧ SameOutput s t

/-- The error halt of 60_exceptions.md R1300 with code `e`: CP, CMD_COUNT and the cursors keep their
values, ERR is set, BUSY cleared. -/
structure ErrorHalted (e : ErrCode) (s t : State) : Prop where
  control : SameControl s t
  input   : SameInput s t
  output  : SameOutput s t
  cp      : t.cp = s.cp
  count   : t.cmdCount = s.cmdCount
  code    : t.errCode = e
  err     : t.err = true
  busy    : t.busy = false
  done    : t.done = s.done

/-- The error a command can raise after its pre-checks have passed, if any (60_exceptions.md
R1304). -/
def executionError (i : Instr) : Option ErrCode :=
  match i with
  | .csci _ _ _ _ _ | .quant _ _ | .quantC _ _ | .qplane _ _ _ | .qplaneC _ _ _ => some .numeric
  | .zrld _ _ => some .malformed
  | .zrle _ _ => some .overflow
  | .nop | .halt | .setin _ _ | .setout _ _ | .sput _ _ | .sget _ _ | .cscf _ _ _ _ _
  | .subs _ _ _ | .ups _ _ _ | .fdct _ _ | .idct _ _ | .dequant _ _ | .dequantC _ _
  | .dqplane _ _ _ | .dqplaneC _ _ _ | .zz _ _ | .unzz _ _ | .ser _ _ _ | .serC _ _ _
  | .deser _ _ _ | .deserC _ _ _ | .me _ _ _ _ _ _ | .psub _ _ _ _ _ | .psubC _ _ _ _ _
  | .padd _ _ _ _ _ | .paddC _ _ _ _ _ => none

/-! ## What a command names, checks and writes: the table of 30_encoding.md R306 -/

/-- The region kinds of 20_memory.md R203. -/
inductive Kind where
  | rblk
  | iblk
  | rplane (ph pw : Nat)
  | qplane (ph pw : Nat)
  | seq (n : Nat)
  | bytes (n : Nat)
  | raster (h w : Nat)
  | vec (h w : Nat)
deriving DecidableEq, Repr

/-- The size of a region in bytes (20_memory.md R203). -/
def Kind.size : Kind → Nat
  | .rblk => 512
  | .iblk => 64
  | .rplane ph pw => 8 * ph * pw
  | .qplane ph pw => pad8 ph * pad8 pw
  | .seq n => n
  | .bytes n => n
  | .raster h w => 3 * h * w
  | .vec h w => 2 * ceilDiv h 8 * ceilDiv w 8

/-- The base must be a multiple of 8 (20_memory.md R203, R212). -/
def Kind.real : Kind → Bool
  | .rblk => true
  | .rplane _ _ => true
  | .iblk | .qplane _ _ | .seq _ | .bytes _ | .raster _ _ | .vec _ _ => false

/-- A region a descriptor names: the operand word with its base, and its kind. -/
structure Named where
  base : Word
  kind : Kind
deriving DecidableEq, Repr

/-- Its addresses. -/
def Named.region (p : Named) : Region := ⟨p.base.toNat, p.kind.size⟩

/-- The regions marked S in the table of 30_encoding.md R306. -/
def namedSources (i : Instr) : List Named :=
  match i with
  | .nop | .halt | .setin _ _ | .setout _ _ | .sget _ _ | .zrld _ _ => []
  | .sput src n => [⟨src, .bytes n.toNat⟩]
  | .cscf src _ _ _ d => [⟨src, .raster (dimsH d) (dimsW d)⟩]
  | .csci y cb cr _ d => [y, cb, cr].map fun p => ⟨p, .rplane (dimsH d) (dimsW d)⟩
  | .subs src _ d => [⟨src, .rplane (dimsH d) (dimsW d)⟩]
  | .ups src _ d => [⟨src, .rplane (ceilDiv (dimsH d) 2) (ceilDiv (dimsW d) 2)⟩]
  | .fdct src _ | .idct src _ | .quant src _ | .quantC src _ => [⟨src, .rblk⟩]
  | .dequant src _ | .dequantC src _ | .zz src _ | .unzz src _ => [⟨src, .iblk⟩]
  | .qplane src _ d => [⟨src, .rplane (planeRows false d) (planeCols false d)⟩]
  | .qplaneC src _ d => [⟨src, .rplane (planeRows true d) (planeCols true d)⟩]
  | .dqplane src _ d | .ser src _ d => [⟨src, .qplane (planeRows false d) (planeCols false d)⟩]
  | .dqplaneC src _ d | .serC src _ d => [⟨src, .qplane (planeRows true d) (planeCols true d)⟩]
  | .deser src _ d => [⟨src, .seq (pad8 (planeRows false d) * pad8 (planeCols false d))⟩]
  | .deserC src _ d => [⟨src, .seq (pad8 (planeRows true d) * pad8 (planeCols true d))⟩]
  | .zrle src n => [⟨src, .seq n.toNat⟩]
  | .me ref tgt _ _ d _ => [ref, tgt].map fun p => ⟨p, .rplane (dimsH d) (dimsW d)⟩
  | .psub base ref vec _ d | .padd base ref vec _ d =>
    ([base, ref].map fun p => ⟨p, .rplane (planeRows false d) (planeCols false d)⟩) ++
      [⟨vec, .vec (dimsH d) (dimsW d)⟩]
  | .psubC base ref vec _ d | .paddC base ref vec _ d =>
    ([base, ref].map fun p => ⟨p, .rplane (planeRows true d) (planeCols true d)⟩) ++
      [⟨vec, .vec (dimsH d) (dimsW d)⟩]

/-- The regions marked D in the table of 30_encoding.md R306. -/
def namedDests (i : Instr) : List Named :=
  match i with
  | .nop | .halt | .setin _ _ | .setout _ _ | .sput _ _ | .zrle _ _ => []
  | .sget dst n => [⟨dst, .bytes n.toNat⟩]
  | .cscf _ y cb cr d => [y, cb, cr].map fun p => ⟨p, .rplane (dimsH d) (dimsW d)⟩
  | .csci _ _ _ dst d => [⟨dst, .raster (dimsH d) (dimsW d)⟩]
  | .subs _ dst d => [⟨dst, .rplane (ceilDiv (dimsH d) 2) (ceilDiv (dimsW d) 2)⟩]
  | .ups _ dst d => [⟨dst, .rplane (dimsH d) (dimsW d)⟩]
  | .fdct _ dst | .idct _ dst | .dequant _ dst | .dequantC _ dst => [⟨dst, .rblk⟩]
  | .quant _ dst | .quantC _ dst | .zz _ dst | .unzz _ dst => [⟨dst, .iblk⟩]
  | .qplane _ dst d | .deser _ dst d => [⟨dst, .qplane (planeRows false d) (planeCols false d)⟩]
  | .qplaneC _ dst d | .deserC _ dst d => [⟨dst, .qplane (planeRows true d) (planeCols true d)⟩]
  | .dqplane _ dst d => [⟨dst, .rplane (planeRows false d) (planeCols false d)⟩]
  | .dqplaneC _ dst d => [⟨dst, .rplane (planeRows true d) (planeCols true d)⟩]
  | .ser _ dst d => [⟨dst, .seq (pad8 (planeRows false d) * pad8 (planeCols false d))⟩]
  | .serC _ dst d => [⟨dst, .seq (pad8 (planeRows true d) * pad8 (planeCols true d))⟩]
  | .zrld dst n => [⟨dst, .seq n.toNat⟩]
  | .me _ _ vec res d _ => [⟨vec, .vec (dimsH d) (dimsW d)⟩, ⟨res, .rplane (dimsH d) (dimsW d)⟩]
  | .psub _ _ _ dst d | .padd _ _ _ dst d => [⟨dst, .rplane (planeRows false d) (planeCols false d)⟩]
  | .psubC _ _ _ dst d | .paddC _ _ _ dst d => [⟨dst, .rplane (planeRows true d) (planeCols true d)⟩]

/-- The DIMS word of the table of 30_encoding.md R306. -/
def dimsOperand (i : Instr) : Option Word :=
  match i with
  | .cscf _ _ _ _ d | .csci _ _ _ _ d | .subs _ _ d | .ups _ _ d | .qplane _ _ d | .qplaneC _ _ d
  | .dqplane _ _ d | .dqplaneC _ _ d | .ser _ _ d | .serC _ _ d | .deser _ _ d | .deserC _ _ d
  | .me _ _ _ _ d _ | .psub _ _ _ _ d | .psubC _ _ _ _ d | .padd _ _ _ _ d | .paddC _ _ _ _ d => some d
  | .nop | .halt | .setin _ _ | .setout _ _ | .sput _ _ | .sget _ _ | .fdct _ _ | .idct _ _
  | .quant _ _ | .quantC _ _ | .dequant _ _ | .dequantC _ _ | .zz _ _ | .unzz _ _ | .zrle _ _
  | .zrld _ _ => none

/-- The cursor pair a stream command uses: SPUT and ZRLE the output stream's, SGET and ZRLD the input
stream's (40_control.md R404). -/
def cursorsOf (i : Instr) (s : State) : Option (Word × Word) :=
  match i with
  | .sput _ _ | .zrle _ _ => some (s.outp, s.outEnd)
  | .sget _ _ | .zrld _ _ => some (s.inp, s.inEnd)
  | _ => none

/-- The stream region a command reads: [INP, INP+n) for SGET (40_control.md R415), [INP, IN_END) for
ZRLD (46_zero_run.md R1011). -/
def streamRead (i : Instr) (s : State) : List Region :=
  match i with
  | .sget _ n => [⟨s.inp.toNat, n.toNat⟩]
  | .zrld _ _ => [⟨s.inp.toNat, s.inEnd.toNat - s.inp.toNat⟩]
  | _ => []

/-- The stream region a command writes: [OUTP, OUTP+n) for SPUT (40_control.md R414), [OUTP, OUT_END)
for ZRLE (46_zero_run.md R1010). -/
def streamWritten (i : Instr) (s : State) : List Region :=
  match i with
  | .sput _ n => [⟨s.outp.toNat, n.toNat⟩]
  | .zrle _ _ => [⟨s.outp.toNat, s.outEnd.toNat - s.outp.toNat⟩]
  | _ => []

/-- Every region a command reads. -/
def sourcesOf (i : Instr) (s : State) : List Region :=
  (namedSources i).map Named.region ++ streamRead i s

/-- Every region a command writes. -/
def destsOf (i : Instr) (s : State) : List Region :=
  (namedDests i).map Named.region ++ streamWritten i s

/-! ## When a command's checks pass, by command (30_encoding.md R308) -/

/-- [a, a+n) lies in LMEM (20_memory.md R213). -/
def Fits (s : State) (a : Word) (n : Nat) : Prop := a.toNat + n ≤ s.params.lmemSize

/-- [a, a+n) and [b, b+m) share no address (00_scope.md R15). -/
def Apart (a n b m : Nat) : Prop := ∀ x, a ≤ x → x < a + n → b ≤ x → x < b + m → False

/-- The base is a multiple of 8 (20_memory.md R212). -/
def Mult8 (a : Word) : Prop := a.toNat % 8 = 0

/-- Both dimensions are at least 1 (30_encoding.md R304). -/
def DimsLegal (d : Word) : Prop := 0 < dimsH d ∧ 0 < dimsW d

/-- lo ≤ hi ≤ LMEM_SIZE (40_control.md R404). -/
def CursorsSane (s : State) (lo hi : Word) : Prop :=
  lo.toNat ≤ hi.toNat ∧ hi.toNat ≤ s.params.lmemSize

/-- SPUT (40_control.md R414). -/
structure ReadySput (s : State) (src n : Word) : Prop where
  fits    : Fits s src n.toNat
  cursors : CursorsSane s s.outp s.outEnd
  room    : s.outp.toNat + n.toNat ≤ s.outEnd.toNat
  apart   : Apart src.toNat n.toNat s.outp.toNat n.toNat

/-- SGET (40_control.md R415). -/
structure ReadySget (s : State) (dst n : Word) : Prop where
  fits    : Fits s dst n.toNat
  cursors : CursorsSane s s.inp s.inEnd
  left    : s.inp.toNat + n.toNat ≤ s.inEnd.toNat
  apart   : Apart dst.toNat n.toNat s.inp.toNat n.toNat

/-- CSCF (41_color.md R510). -/
structure ReadyCscf (s : State) (src y cb cr d : Word) : Prop where
  dims  : DimsLegal d
  fits  : Fits s src (3 * dimsH d * dimsW d) ∧
    ∀ p ∈ [y, cb, cr], Fits s p (8 * dimsH d * dimsW d) ∧ Mult8 p ∧
      Apart p.toNat (8 * dimsH d * dimsW d) src.toNat (3 * dimsH d * dimsW d)
  apart : [y, cb, cr].Pairwise fun p q =>
    Apart p.toNat (8 * dimsH d * dimsW d) q.toNat (8 * dimsH d * dimsW d)

/-- CSCI (41_color.md R511). -/
structure ReadyCsci (s : State) (y cb cr dst d : Word) : Prop where
  dims : DimsLegal d
  fits : Fits s dst (3 * dimsH d * dimsW d) ∧
    ∀ p ∈ [y, cb, cr], Fits s p (8 * dimsH d * dimsW d) ∧ Mult8 p ∧
      Apart dst.toNat (3 * dimsH d * dimsW d) p.toNat (8 * dimsH d * dimsW d)

/-- A command with one source region of n bytes and one destination region of m bytes; `sf` and `df`
say which of them holds binary64 elements (20_memory.md R203). -/
structure ReadyMove (s : State) (src : Word) (n : Nat) (sf : Bool) (dst : Word) (m : Nat)
    (df : Bool) : Prop where
  fits  : Fits s src n ∧ Fits s dst m
  align : (sf = true → Mult8 src) ∧ (df = true → Mult8 dst)
  apart : Apart dst.toNat m src.toNat n

/-- ZRLE (46_zero_run.md R1010). -/
structure ReadyZrle (s : State) (src n : Word) : Prop where
  fits    : Fits s src n.toNat
  cursors : CursorsSane s s.outp s.outEnd
  apart   : Apart src.toNat n.toNat s.outp.toNat (s.outEnd.toNat - s.outp.toNat)

/-- ZRLD (46_zero_run.md R1011). -/
structure ReadyZrld (s : State) (dst n : Word) : Prop where
  fits    : Fits s dst n.toNat
  cursors : CursorsSane s s.inp s.inEnd
  apart   : Apart dst.toNat n.toNat s.inp.toNat (s.inEnd.toNat - s.inp.toNat)

/-- ME (47_motion.md R1110). -/
structure ReadyMe (s : State) (ref tgt vec res d radius : Word) : Prop where
  dims   : DimsLegal d
  radius : radius.toNat ≤ 128
  fits   : Fits s vec (2 * ceilDiv (dimsH d) 8 * ceilDiv (dimsW d) 8) ∧
    ∀ p ∈ [ref, tgt, res], Fits s p (8 * dimsH d * dimsW d) ∧ Mult8 p
  apart  : (∀ p ∈ [ref, tgt, res], Apart vec.toNat (2 * ceilDiv (dimsH d) 8 * ceilDiv (dimsW d) 8)
      p.toNat (8 * dimsH d * dimsW d)) ∧
    ∀ p ∈ [ref, tgt], Apart res.toNat (8 * dimsH d * dimsW d) p.toNat (8 * dimsH d * dimsW d)

/-- PSUB and PADD on ph by pw planes, with the vector list of the frame (47_motion.md R1111,
R1112). -/
structure ReadyCompensate (s : State) (c : Bool) (base ref vec dst d : Word) : Prop where
  dims  : DimsLegal d
  fits  : Fits s vec (2 * ceilDiv (dimsH d) 8 * ceilDiv (dimsW d) 8) ∧
    ∀ p ∈ [base, ref, dst], Fits s p (8 * planeRows c d * planeCols c d) ∧ Mult8 p
  apart : Apart dst.toNat (8 * planeRows c d * planeCols c d) vec.toNat
      (2 * ceilDiv (dimsH d) 8 * ceilDiv (dimsW d) 8) ∧
    ∀ p ∈ [base, ref], Apart dst.toNat (8 * planeRows c d * planeCols c d)
      p.toNat (8 * planeRows c d * planeCols c d)

/-! ## The rules' loops -/

/-- The spec's double sum: `s <- +0.0; for x in 0..n-1: for y in 0..m-1: s <- fadd(s, f x y)`. -/
def loopSum (n m : Nat) (f : Nat → Nat → F64) : F64 :=
  (List.range n).foldl (fun s x => (List.range m).foldl (fun s y => fadd s (f x y)) s) f64Zero

/-- F[u][v] of 43_transform.md R702, for samples f[x][y]. -/
def fdctRule (f : Nat → Nat → F64) (u v : Nat) : F64 :=
  fmul (fmul (fmul quarter (cScale u)) (cScale v))
    (loopSum 8 8 fun x y => fmul (fmul (f x y) (cosEntry x u)) (cosEntry y v))

/-- f[x][y] of 43_transform.md R703, for coefficients F[u][v]. -/
def idctRule (F : Nat → Nat → F64) (x y : Nat) : F64 :=
  fmul quarter
    (loopSum 8 8 fun u v =>
      fmul (fmul (fmul (fmul (cScale u) (cScale v)) (F u v)) (cosEntry x u)) (cosEntry y v))

/-- The quotient of 44_quantizer.md R803 at natural index k: F[k] / T[k]. -/
def quotientRule (T : List Byte) (f : Nat → Nat → F64) (k : Nat) : F64 :=
  fdiv (fdctRule f (k / 8) (k % 8)) (f64OfInt (T.getD k 1).toNat)

/-- The samples of 44_quantizer.md R805: the inverse transform of q[k] · T[k]. -/
def dequantRule (T : List Byte) (q : Nat → Int) (x y : Nat) : F64 :=
  idctRule (fun u v => fmul (f64OfInt (q (8 * u + v))) (f64OfInt (T.getD (8 * u + v) 1).toNat)) x y

/-- QTAB_LUMA for C = 0, QTAB_CHROMA for C = 1 (44_quantizer.md R802). -/
def tableOf (c : Bool) (s : State) : List Byte :=
  if c then s.params.qtabChroma else s.params.qtabLuma

/-- Sample (r, c) of the padded plane: the plane's sample (min(r, ph-1), min(c, pw-1))
(44_quantizer.md R808). -/
def paddedSample (s : State) (src ph pw r c : Nat) : F64 :=
  readF64 s (src + 8 * (min r (ph - 1) * pw + min c (pw - 1)))

/-- Channel j (0 red, 1 green, 2 blue) of pixel (r, c) before toU8, of planes of w columns (41_color.md
R502). -/
def csciChannel (s : State) (y cb cr : Word) (w j r c : Nat) : F64 :=
  let k := s.params.csc
  let sample := fun p : Word => readF64 s (p.toNat + 8 * (r * w + c))
  if j = 0 then fadd (sample y) (fmul k.rCr (fsub (sample cr) (f64OfInt 128)))
  else if j = 1 then
    fsub (fsub (sample y) (fmul k.gCb (fsub (sample cb) (f64OfInt 128))))
      (fmul k.gCr (fsub (sample cr) (f64OfInt 128)))
  else fadd (sample y) (fmul k.bCb (fsub (sample cb) (f64OfInt 128)))

/-! ## The search of 47_motion.md R1106, for planes given as functions of row and column -/

/-- sad(dx, dy) of R1105, over a macroblock at (r0, c0) of bh rows and bw columns. -/
def sadRule (tgt ref : Nat → Nat → F64) (r0 c0 bh bw : Nat) (dx dy : Int) : F64 :=
  loopSum bh bw fun x y =>
    fabs (fsub (tgt (r0 + x) (c0 + y)) (ref ((r0 : Int) + dy + x).toNat ((c0 : Int) + dx + y).toNat))

/-- valid(dx, dy) of R1103, in a reference plane of h rows and w columns. -/
abbrev ValidRule (h w r0 c0 bh bw : Nat) (dx dy : Int) : Prop :=
  (r0 : Int) + dy ≥ 0 ∧ (c0 : Int) + dx ≥ 0 ∧ (r0 : Int) + dy + bh ≤ h ∧ (c0 : Int) + dx + bw ≤ w

/-- One round of the loop at step s: the center (cx, cy) is scored, and its neighbours at (oy, ox) in the
written order, each of which replaces the best when it is valid and its score is strictly lower. -/
def roundRule (h w : Nat) (tgt ref : Nat → Nat → F64) (r0 c0 bh bw s : Nat) (cx cy : Int) : Int × Int :=
  ([((-1 : Int), (-1 : Int)), (-1, 0), (-1, 1), (0, -1), (0, 1), (1, -1), (1, 0), (1, 1)].foldl
    (fun (best : F64 × Int × Int) (oy, ox) =>
      let dx := cx + ox * s
      let dy := cy + oy * s
      let d := sadRule tgt ref r0 c0 bh bw dx dy
      if ValidRule h w r0 c0 bh bw dx dy ∧ flt d best.1 = true then (d, dx, dy) else best)
    (sadRule tgt ref r0 c0 bh bw cx cy, cx, cy)).2

/-- The loop: rounds at step s, ceil_div(s, 2) and so on; the round at step 1 is the last. `rounds` bounds
their number. -/
def loopRule (h w : Nat) (tgt ref : Nat → Nat → F64) (r0 c0 bh bw rounds s : Nat) (center : Int × Int) :
    Int × Int :=
  match rounds with
  | 0 => center
  | rounds + 1 =>
    let best := roundRule h w tgt ref r0 c0 bh bw s center.1 center.2
    if s = 1 then best else loopRule h w tgt ref r0 c0 bh bw rounds (ceilDiv s 2) best

/-- search(m, R) for the macroblock (mr, mc) (R1102, R1106). A radius of at most 128 gives at most 7
rounds (R1104). -/
def searchRule (h w : Nat) (tgt ref : Nat → Nat → F64) (mr mc R : Nat) : Int × Int :=
  if R = 0 then (0, 0)
  else loopRule h w tgt ref (8 * mr) (8 * mc) (min 8 (h - 8 * mr)) (min 8 (w - 8 * mc)) 7
    (ceilDiv R 2) (0, 0)

/-! ## Tokens of a zero-run stream (46_zero_run.md R1000) -/

/-- A literal byte, not 0, or a pair of 0 and a count. -/
inductive Token where
  | literal (b : Byte)
  | run (c : Byte)
deriving DecidableEq, Repr

/-- A literal is not the byte 0. -/
def Token.legal : Token → Bool
  | .literal b => b != 0#8
  | .run _ => true

/-- The bytes of a token. -/
def Token.bytes : Token → List Byte
  | .literal b => [b]
  | .run c => [0#8, c]

/-- The values a token stands for, as bytes. -/
def Token.values : Token → List Byte
  | .literal b => [b]
  | .run c => List.replicate c.toNat 0#8

/-! ## The host's turn -/

/-- The next step is the host's, and the host makes access `r`: no held access comes first, and
rst_n = 1. -/
def HostTurn (s : State) (r : HostReq) (rest : List HostMove) : Prop :=
  s.inputs = .access r :: rest ∧ (s.busy = true ∨ s.held = []) ∧ s.inReset = false

/-- A 4-byte read at an offset. -/
def readReq (off : BitVec 25) : HostReq := { we := false, addr := off, size := 2#2, wdata := 0 }

/-- A 4-byte write at an offset. -/
def writeReq (off : BitVec 25) (v : Word) : HostReq := { we := true, addr := off, size := 2#2, wdata := v }

/-- The access is a write to CTRL with START = 1 and SRST = 0 (10_state.md R105). -/
def isStart (r : HostReq) : Prop :=
  r.we = true ∧ r.size = 2#2 ∧ r.addr = 0x004#25 ∧ r.wdata.getLsbD 0 = true ∧ r.wdata.getLsbD 1 = false

/-- The access is a write to CTRL with SRST = 1 (70_reset_and_hazards.md R1401). -/
def isSrst (r : HostReq) : Prop :=
  r.we = true ∧ r.size = 2#2 ∧ r.addr = 0x004#25 ∧ r.wdata.getLsbD 1 = true

/-- The state with another host side: enables, held accesses, moves and responses. The engine reads
none of these. -/
def withHostSide (doneIe errIe : Bool) (held : List HostReq) (inputs : List HostMove)
    (replies : List Reply) (s : State) : State :=
  { s with doneIe := doneIe, errIe := errIe, held := held, inputs := inputs, replies := replies }

end Sys2Proof.Machine
end

