-- ==== Sys2Proof/WellFormed.lean ====
section
/-! DEFINITION. Which commands are well formed: the checks of 30_encoding.md R308 that depend on the
operand words alone, whatever the registers and LMEM_SIZE are. Every `Instr` has an encoding, so an
ill-formed command is one that decodes and then always raises an error. Log 20. -/

namespace Sys2Proof

/-- The height field of a DIMS word (30_encoding.md R304). -/
def dimsHeightField (d : Word) : BitVec 16 := d.extractLsb' 0 16

/-- The width field of a DIMS word (30_encoding.md R304). -/
def dimsWidthField (d : Word) : BitVec 16 := d.extractLsb' 16 16

/-- Neither dimension is 0 (30_encoding.md R304). -/
def dimsOk (d : Word) : Bool := dimsHeightField d != 0#16 && dimsWidthField d != 0#16

/-- The base of an f64 region is a multiple of 8 (20_memory.md R212). -/
def aligned8 (a : Word) : Bool := a.extractLsb' 0 3 == 0#3

/-- A SETIN or SETOUT pair is in order (40_control.md R412, R413). -/
def pairOk (addr stop : Word) : Bool := decide (addr.toNat ≤ stop.toNat)

/-- The search radius is legal (47_motion.md R1104). -/
def radiusOk (r : Word) : Bool := decide (r.toNat ≤ 128)

/-- The static operand checks of a command: dimensions, argument legality, alignment. -/
def Instr.wellFormed : Instr → Bool
  | .nop => true
  | .halt => true
  | .setin addr stop => pairOk addr stop
  | .setout addr stop => pairOk addr stop
  | .sput _ _ => true
  | .sget _ _ => true
  | .cscf _ y cb cr dims => dimsOk dims && aligned8 y && aligned8 cb && aligned8 cr
  | .csci y cb cr _ dims => dimsOk dims && aligned8 y && aligned8 cb && aligned8 cr
  | .subs src dst dims => dimsOk dims && aligned8 src && aligned8 dst
  | .ups src dst dims => dimsOk dims && aligned8 src && aligned8 dst
  | .fdct src dst => aligned8 src && aligned8 dst
  | .idct src dst => aligned8 src && aligned8 dst
  | .quant src _ => aligned8 src
  | .quantC src _ => aligned8 src
  | .dequant _ dst => aligned8 dst
  | .dequantC _ dst => aligned8 dst
  | .qplane src _ dims => dimsOk dims && aligned8 src
  | .qplaneC src _ dims => dimsOk dims && aligned8 src
  | .dqplane _ dst dims => dimsOk dims && aligned8 dst
  | .dqplaneC _ dst dims => dimsOk dims && aligned8 dst
  | .zz _ _ => true
  | .unzz _ _ => true
  | .ser _ _ dims => dimsOk dims
  | .serC _ _ dims => dimsOk dims
  | .deser _ _ dims => dimsOk dims
  | .deserC _ _ dims => dimsOk dims
  | .zrle _ _ => true
  | .zrld _ _ => true
  | .me ref tgt _ res dims radius =>
      dimsOk dims && radiusOk radius && aligned8 ref && aligned8 tgt && aligned8 res
  | .psub tgt ref _ dst dims => dimsOk dims && aligned8 tgt && aligned8 ref && aligned8 dst
  | .psubC tgt ref _ dst dims => dimsOk dims && aligned8 tgt && aligned8 ref && aligned8 dst
  | .padd res ref _ dst dims => dimsOk dims && aligned8 res && aligned8 ref && aligned8 dst
  | .paddC res ref _ dst dims => dimsOk dims && aligned8 res && aligned8 ref && aligned8 dst

end Sys2Proof
end

