-- ==== Sys2Proof/Certificates/Slice0/Obligations.lean ====
section
/-! DEFINITION. The statements about the model, each from the rules of spec/ its docstring names. -/

open Sys2Proof Sys2Proof.Machine

/-! ## Encoding -/

/-- R300, R306, R311: the 32 bytes written for a command, read again, give that command, whatever its
operand words are. -/
def Obligations.decode_of_encode : Prop :=
  ∀ i : Instr, (encodeBytes i).length = 32 ∧ decodeBytes (encodeBytes i) = .ok i

/-- R307, R302: decoding by W0 alone, in the order of the rule; a defined W0 is read as the command
whose encoding it is, with W1, W2, … as its operands in order, and the operand words the command does
not use are ignored. -/
def Obligations.decode_follows_w0 : Prop :=
  ∀ d : Descriptor,
    let opc := d.w0.toNat % 256
    let c := d.w0.toNat / 256 % 2
    let rsvd := d.w0.toNat / 512
    let undefined := (0x06 ≤ opc ∧ opc ≤ 0x0F) ∨ (0x12 ≤ opc ∧ opc ≤ 0x17) ∨
      (0x1A ≤ opc ∧ opc ≤ 0x1F) ∨ (0x22 ≤ opc ∧ opc ≤ 0x27) ∨ (0x2C ≤ opc ∧ opc ≤ 0x2F) ∨
      (0x34 ≤ opc ∧ opc ≤ 0x37) ∨ (0x3A ≤ opc ∧ opc ≤ 0x3F) ∨ (0x43 ≤ opc ∧ opc ≤ 0xFF)
    let hasC := opc ∈ [0x28, 0x29, 0x2A, 0x2B, 0x32, 0x33, 0x41, 0x42]
    (undefined → decode d = .error .opcode) ∧
    (¬ undefined → rsvd ≠ 0 → decode d = .error .reserved) ∧
    (¬ undefined → rsvd = 0 → c = 1 → ¬ hasC → decode d = .error .reserved) ∧
    (¬ undefined → rsvd = 0 → (c = 1 → hasC) →
      ∃ i, decode d = .ok i ∧ (encode i).w0 = d.w0 ∧
        i.operands = (d.words.drop 1).take i.operands.length ∧
        ∀ e : Descriptor, e.w0 = d.w0 → (e.words.drop 1).take i.operands.length = i.operands →
          decode e = .ok i)

/-- R306, R310: words written out from the encoding table, one or more for each family. -/
def Obligations.decode_of_words : Prop :=
  decode ⟨0x00, 0, 0, 0, 0, 0, 0, 0⟩ = .ok .nop ∧
  decode ⟨0x02, 0x2000, 0x2010, 0, 0, 0, 0, 0⟩ = .ok (.setin 0x2000 0x2010) ∧
  decode ⟨0x11, 1, 2, 3, 4, 5, 0, 0⟩ = .ok (.csci 1 2 3 4 5) ∧
  decode ⟨0x18, 1, 2, 3, 0, 0, 0, 0⟩ = .ok (.subs 1 2 3) ∧
  decode ⟨0x21, 1, 2, 0, 0, 0, 0, 0⟩ = .ok (.idct 1 2) ∧
  decode ⟨0x12A, 0x1000, 0x8000, 0x80008, 0, 0, 0, 0⟩ = .ok (.qplaneC 0x1000 0x8000 0x80008) ∧
  decode ⟨0x32, 1, 2, 3, 0, 0, 0, 0⟩ = .ok (.ser 1 2 3) ∧
  decode ⟨0x39, 1, 2, 0, 0, 0, 0, 0⟩ = .ok (.zrld 1 2) ∧
  decode ⟨0x40, 1, 2, 3, 4, 5, 6, 0⟩ = .ok (.me 1 2 3 4 5 6) ∧
  decode ⟨0x142, 1, 2, 3, 4, 5, 0, 0⟩ = .ok (.paddC 1 2 3 4 5)

/-! ## The engine's step -/

/-- R400, R401: when the 32 bytes at CP decode to a command and the host has no move or waits, a step
of the busy machine is exactly that command's meaning. -/
def Obligations.step_runs_decoded : Prop :=
  ∀ (s : State) (i : Instr), s.busy = true → s.cp.toNat + 32 ≤ s.params.lmemSize →
    decodeBytes (readBytes s s.cp.toNat 32) = .ok i →
    (s.inputs = [] → step s = exec i s) ∧
    (∀ rest, s.inputs = .wait :: rest → step s = exec i { s with inputs := rest })

/-- R1303: each step reports the first error that applies, in the rule's order; a command that passes
every pre-check completes or ends with its execution-time error, if it has one. The regions are those of
the table of R306 with the sizes of R203, and the stream regions of R414, R415, R1010 and R1011, all
written out in Safety.lean. -/
def Obligations.first_error_in_order : Prop :=
  ∀ s : State, s.busy = true → s.inputs = [] →
    (s.params.lmemSize < s.cp.toNat + 32 → step s = .next (errorHalt .range s)) ∧
    (s.cp.toNat + 32 ≤ s.params.lmemSize →
      (decodeBytes (readBytes s s.cp.toNat 32) = .error .opcode →
        step s = .next (errorHalt .opcode s)) ∧
      (decodeBytes (readBytes s s.cp.toNat 32) = .error .reserved →
        step s = .next (errorHalt .rsvd s)) ∧
      ∀ i, decodeBytes (readBytes s s.cp.toNat 32) = .ok i → i ≠ .halt →
        let named := namedSources i ++ namedDests i
        let sets := fun addr stop : Word => i = .setin addr stop ∨ i = .setout addr stop
        let apart := fun r q : Region => Apart r.base r.len q.base q.len
        let badDims := ∃ d, dimsOperand i = some d ∧ (dimsH d = 0 ∨ dimsW d = 0)
        let badArg := (∃ addr stop, sets addr stop ∧ stop.toNat < addr.toNat) ∨
          ∃ ref tgt vec res d radius, i = .me ref tgt vec res d radius ∧ 128 < radius.toNat
        let badRange := (∃ p ∈ named, s.params.lmemSize < p.base.toNat + p.kind.size) ∨
          (∃ addr stop, sets addr stop ∧ s.params.lmemSize < stop.toNat) ∨
          ∃ lo hi, cursorsOf i s = some (lo, hi) ∧ ¬ CursorsSane s lo hi
        let badAlign := ∃ p ∈ named, p.kind.real = true ∧ p.base.toNat % 8 ≠ 0
        let noRoom := ∃ src n, i = .sput src n ∧ s.outEnd.toNat < s.outp.toNat + n.toNat
        let tooFew := ∃ dst n, i = .sget dst n ∧ s.inEnd.toNat < s.inp.toNat + n.toNat
        let badOverlap := (∃ d ∈ destsOf i s, ∃ r ∈ sourcesOf i s, ¬ apart d r) ∨
          ¬ (destsOf i s).Pairwise apart
        (badDims → step s = .next (errorHalt .dims s)) ∧
        (¬ badDims → badArg → step s = .next (errorHalt .arg s)) ∧
        (¬ badDims → ¬ badArg → badRange → step s = .next (errorHalt .range s)) ∧
        (¬ badDims → ¬ badArg → ¬ badRange → badAlign → step s = .next (errorHalt .align s)) ∧
        (¬ badDims → ¬ badArg → ¬ badRange → ¬ badAlign → noRoom →
          step s = .next (errorHalt .overflow s)) ∧
        (¬ badDims → ¬ badArg → ¬ badRange → ¬ badAlign → tooFew →
          step s = .next (errorHalt .malformed s)) ∧
        (¬ badDims → ¬ badArg → ¬ badRange → ¬ badAlign → ¬ noRoom → ¬ tooFew → badOverlap →
          step s = .next (errorHalt .overlap s)) ∧
        (¬ badDims → ¬ badArg → ¬ badRange → ¬ badAlign → ¬ noRoom → ¬ tooFew → ¬ badOverlap →
          ∃ t, step s = .next t ∧
            (Completed s t ∨ ∃ e, executionError i = some e ∧ ErrorHalted e s t)))

/-- R400, R1300: every command either completes or halts with an error, and changes no byte of LMEM
outside the destination regions of its rule (R306, R203, R414, R1010). -/
def Obligations.command_outcomes : Prop :=
  ∀ (i : Instr) (s : State), ∃ t, exec i s = .next t ∧
    SameBytesOutsideRegions (destsOf i s) s t ∧
    ((i ≠ .halt ∧ Completed s t) ∨
     (i = .halt ∧ Advanced s t ∧ t.busy = false ∧ t.done = true) ∨
     (i ≠ .halt ∧ ∃ e, e ≠ .none ∧ ErrorHalted e s t))

/-- The machine of State.reset meets the invariant (R1400; the parameters are the model's choice,
log 8). -/
def Obligations.reset_legal : Prop := Legal State.reset

/-- Every step keeps the invariant `Legal`: LMEM in canonical form and inside LMEM_SIZE, CLP and CP
multiples of 32 (R107, R109), STATUS and ERR_CODE as lists leave them (R106, R111, R1321), the
boundaries those of the running list (R117), CMD_COUNT without wrap (R110), every register at its reset
value while rst_n is 0 (R1400). -/
def Obligations.step_keeps_legal : Prop :=
  ∀ s t : State, Legal s → step s = .next t → Legal t

/-- R1412: from any state where only the engine moves, the list has ended after at most
LMEM_SIZE/32 completions and one more step, with DONE or ERR. -/
def Obligations.every_run_ends : Prop :=
  ∀ s : State, HostQuiet s → s.busy = true → s.done = false → s.err = false →
    s.params.lmemSize ≤ 0x1000000 →
    ∃ k, k ≤ s.params.lmemSize / 32 + 1 ∧ (stepsFrom k s).busy = false ∧
      (stepsFrom k s).done ≠ (stepsFrom k s).err

/-- R402, with the resets of R1400 and R1401: CP changes by START, by a completion, or by a reset. -/
def Obligations.cp_changes : Prop :=
  ∀ s t : State, step s = .next t →
    t.cp = s.cp ∨
    (s.busy = true ∧ Advanced s t) ∨
    (∃ r rest, s.inputs = .access r :: rest ∧ isStart r ∧ s.busy = false ∧ t.cp = s.clp) ∨
    (∃ m rest, s.inputs = m :: rest ∧ t.cp = 0 ∧
      (m = .rstAssert ∨ m = .rstRelease ∨ ∃ r, m = .access r ∧ isSrst r))

/-- R106: what sets and clears BUSY, DONE and ERR. -/
def Obligations.status_changes : Prop :=
  ∀ s t : State, step s = .next t →
    let wasReset := ∃ m rest, s.inputs = m :: rest ∧
      (m = .rstAssert ∨ m = .rstRelease ∨ ∃ r, m = .access r ∧ isSrst r)
    let wasStart := ∃ r rest, s.inputs = .access r :: rest ∧ isStart r ∧ s.busy = false
    let wrote := fun b : Nat => ∃ v rest, s.inputs = .access (writeReq 0x008 v) :: rest ∧
      v.getLsbD b = true
    (s.busy = false → t.busy = true → wasStart) ∧
    (s.busy = true → t.busy = false → t.done = true ∨ t.err = true ∨ wasReset) ∧
    (s.done = false → t.done = true → s.busy = true ∧ t.busy = false ∧ Advanced s t) ∧
    (s.err = false → t.err = true → s.busy = true ∧ t.busy = false ∧ t.cp = s.cp ∧ t.errCode ≠ .none) ∧
    (s.done = true → t.done = false → wrote 1 ∨ wasStart ∨ wasReset) ∧
    (s.err = true → t.err = false → wrote 2 ∨ wasStart ∨ wasReset)

/-- R11, R112: in every state a step answers a next state (no fault, no refusal: log 12), and the
parameters are what they were. -/
def Obligations.params_constant : Prop :=
  ∀ s : State, ∃ t, step s = .next t ∧ t.params = s.params

/-- R1405, R1320, R1421: a busy machine with no host move goes on with irq low, or ends its list with
STATUS = DONE or STATUS = ERR and irq as IRQ_EN enables it, in that same step. -/
def Obligations.end_of_list_reported : Prop :=
  ∀ s t : State, Legal s → s.busy = true → s.inputs = [] → step s = .next t →
    (t.busy = true ∧ irq t = false) ∨
    (t.busy = false ∧ statusWord t = 2 ∧ errCodeWord t = 0 ∧ irq t = s.doneIe) ∨
    (t.busy = false ∧ statusWord t = 4 ∧ errCodeWord t ≠ 0 ∧ irq t = s.errIe)

/-- Nothing of the host's side enters a command: IRQ_EN, held accesses, coming moves and responses
change neither whether it completes nor any value it leaves (R1404, R217). -/
def Obligations.commands_ignore_host_side : Prop :=
  ∀ (i : Instr) (s : State) (d e : Bool) (held : List HostReq) (inputs : List HostMove)
    (replies : List Reply),
    ∃ t, exec i s = .next t ∧
      exec i (withHostSide d e held inputs replies s) =
        .next (withHostSide d e held inputs replies t)

/-! ## The host port and the resets -/

/-- R105: a write to CTRL, idle or busy. -/
def Obligations.ctrl_write : Prop :=
  ∀ (s : State) (v : Word) (rest : List HostMove), HostTurn s (writeReq 0x004 v) rest →
    (v.getLsbD 1 = true → ∃ t, step s = .next t ∧ t.busy = false ∧ t.done = false ∧
      t.err = false ∧ t.cp = 0 ∧ t.clp = 0) ∧
    (s.busy = false → v.getLsbD 1 = false → v.getLsbD 0 = true → ∃ t, step s = .next t ∧
      t.cp = s.clp ∧ t.cmdCount = 0 ∧ t.errCode = .none ∧ t.done = false ∧ t.err = false ∧
      t.busy = true ∧ t.doneIe = s.doneIe ∧ t.errIe = s.errIe ∧ t.clp = s.clp ∧ SameInput s t ∧
      SameOutput s t ∧ SameBytes s t ∧ t.params = s.params ∧ t.held = s.held ∧ t.inputs = rest ∧
      t.boundaries = [boundaryNow t]) ∧
    ((s.busy = true ∨ v.getLsbD 0 = false) → v.getLsbD 1 = false →
      step s = .next { s with inputs := rest, replies := .ack :: s.replies })

/-- R1401: a soft reset. An idle machine keeps every byte of LMEM; a busy one keeps every byte outside
the destination regions of the command at CP (that this command is the abandoned one is the model's
choice, log 6), and every byte where no command is there. -/
def Obligations.soft_reset : Prop :=
  ∀ (s : State) (v : Word) (rest : List HostMove), HostTurn s (writeReq 0x004 v) rest →
    v.getLsbD 1 = true → ∃ t, step s = .next t ∧
      t.busy = false ∧ t.done = false ∧ t.err = false ∧ t.doneIe = false ∧ t.errIe = false ∧
      t.clp = 0 ∧ t.cp = 0 ∧ t.errCode = .none ∧ t.cmdCount = 0 ∧ t.inp = 0 ∧ t.inEnd = 0 ∧
      t.outp = 0 ∧ t.outEnd = 0 ∧ irq t = false ∧ t.params = s.params ∧ t.held = s.held ∧
      t.inputs = rest ∧
      (s.busy = false → SameBytes s t) ∧
      (s.params.lmemSize < s.cp.toNat + 32 → SameBytes s t) ∧
      (∀ e, decodeBytes (readBytes s s.cp.toNat 32) = .error e → SameBytes s t) ∧
      (∀ i, decodeBytes (readBytes s s.cp.toNat 32) = .ok i →
        SameBytesOutsideRegions (destsOf i s) s t)

/-- R1400: rst_n going to 0, its release, and what a host access does in between. -/
def Obligations.hardware_reset : Prop :=
  ∀ (s : State) (rest : List HostMove), (s.busy = true ∨ s.held = []) →
    (∀ m, (m = .rstAssert ∨ (m = .rstRelease ∧ s.inReset = true)) → s.inputs = m :: rest →
      ∃ t, step s = .next t ∧
        t.busy = false ∧ t.done = false ∧ t.err = false ∧ t.doneIe = false ∧ t.errIe = false ∧
        t.clp = 0 ∧ t.cp = 0 ∧ t.errCode = .none ∧ t.cmdCount = 0 ∧ t.inp = 0 ∧ t.inEnd = 0 ∧
        t.outp = 0 ∧ t.outEnd = 0 ∧ irq t = false ∧ t.held = [] ∧ t.lmem = [] ∧
        t.params = s.params ∧ t.inputs = rest ∧ (t.inReset = true ↔ m = .rstAssert)) ∧
    (∀ r, s.inReset = true → s.inputs = .access r :: rest →
      step s = .next { s with inputs := rest,
                              replies := (if r.we then .ack else .data 0) :: s.replies })

/-- R103, R104, R112, R113, R117: what a 4-byte read of each register of the map returns, with nothing
else changed; while busy too, but for the four registers R117 draws. -/
def Obligations.register_reads : Prop :=
  ∀ (s : State) (off : BitVec 25) (v : Word) (rest : List HostMove),
    HostTurn s (readReq off) rest →
    (s.busy = false ∨ off ∉ [0x014#25, 0x01C#25, 0x020#25, 0x028#25]) →
    ((off, v) ∈ [(0x000#25, 0x434D5001#32), (0x004#25, 0),
        (0x008#25, BitVec.ofNat 32 ((if s.busy then 1 else 0) + (if s.done then 2 else 0) +
          (if s.err then 4 else 0))),
        (0x00C#25, BitVec.ofNat 32 ((if s.doneIe then 2 else 0) + (if s.errIe then 4 else 0))),
        (0x010#25, s.clp), (0x014#25, s.cp), (0x018#25, BitVec.ofNat 32 s.errCode.code.toNat),
        (0x01C#25, s.cmdCount), (0x020#25, s.inp), (0x024#25, s.inEnd), (0x028#25, s.outp),
        (0x02C#25, s.outEnd), (0x030#25, BitVec.ofNat 32 s.params.lmemSize)] ∨
      (∃ j, j < 16 ∧ ∃ T, (off.toNat, T) ∈ [(0x100 + 4 * j, s.params.qtabLuma),
          (0x140 + 4 * j, s.params.qtabChroma)] ∧
        v = T.getD (4 * j + 3) 0 ++ T.getD (4 * j + 2) 0 ++ T.getD (4 * j + 1) 0 ++ T.getD (4 * j) 0)) →
    step s = .next { s with inputs := rest, replies := .data v :: s.replies }

/-- R104, R107, R116: what a 4-byte write to each register does, with nothing else changed; a write to
a read-only or unlisted offset does nothing. CTRL is `ctrl_write`'s. -/
def Obligations.register_writes : Prop :=
  ∀ (s : State) (off : BitVec 25) (v : Word) (rest : List HostMove),
    HostTurn s (writeReq off v) rest →
    let u := { s with inputs := rest, replies := .ack :: s.replies }
    (off = 0x008#25 → step s = .next { u with done := s.done && !v.getLsbD 1
                                              err := s.err && !v.getLsbD 2 }) ∧
    (off = 0x00C#25 → step s = .next { u with doneIe := v.getLsbD 1, errIe := v.getLsbD 2 }) ∧
    (s.busy = false → off = 0x010#25 → step s = .next { u with clp := v &&& 0xFFFFFFE0#32 }) ∧
    (s.busy = false → off = 0x020#25 → step s = .next { u with inp := v }) ∧
    (s.busy = false → off = 0x024#25 → step s = .next { u with inEnd := v }) ∧
    (s.busy = false → off = 0x028#25 → step s = .next { u with outp := v }) ∧
    (s.busy = false → off = 0x02C#25 → step s = .next { u with outEnd := v }) ∧
    (off.toNat < 0x1000 → off ∉ [0x004#25, 0x008#25, 0x00C#25, 0x010#25, 0x020#25, 0x024#25, 0x028#25,
      0x02C#25] → step s = .next u)

/-- R102, R103: an unlisted, ill-sized or unaligned access to the register block, and any access to an
unmapped offset, reads 0 and writes nothing. -/
def Obligations.other_accesses_do_nothing : Prop :=
  ∀ (s : State) (r : HostReq) (rest : List HostMove), HostTurn s r rest →
    ((r.addr.toNat < 0x1000 ∧ (r.size ≠ 2#2 ∨ r.addr.toNat % 4 ≠ 0)) ∨
     (0x1000 ≤ r.addr.toNat ∧ r.addr.toNat < 0x1000000) ∨
     0x1000000 + s.params.lmemSize ≤ r.addr.toNat ∨
     (r.we = false ∧ 0x034 ≤ r.addr.toNat ∧ r.addr.toNat < 0x100) ∨
     (r.we = false ∧ 0x180 ≤ r.addr.toNat ∧ r.addr.toNat < 0x1000)) →
    step s = .next { s with inputs := rest,
                            replies := (if r.we then .ack else .data 0) :: s.replies }

/-- R115, R101, R201: an idle machine's access to the LMEM window. That an access of the reserved size 3
reads 0 and writes nothing there is the model's inference from R115 (DEDUCED, log 11). -/
def Obligations.lmem_window : Prop :=
  ∀ (s : State) (r : HostReq) (rest : List HostMove) (a n : Nat), HostTurn s r rest →
    s.busy = false → r.addr.toNat = 0x1000000 + a → a < s.params.lmemSize →
    ((r.size, n) ∈ [(0#2, 1), (1#2, 2), (2#2, 4)] → a % n = 0 → a + n ≤ s.params.lmemSize →
      (r.we = false → ∃ w : Word,
        step s = .next { s with inputs := rest, replies := .data w :: s.replies } ∧
        ∀ k, k < 4 → w.extractLsb' (8 * k) 8 = if k < n then readByte s (a + k) else 0) ∧
      (r.we = true → ∃ t,
        step s = .next t ∧
        t = { s with lmem := t.lmem, inputs := rest, replies := .ack :: s.replies } ∧
        (∀ k, k < n → readByte t (a + k) = r.wdata.extractLsb' (8 * k) 8) ∧
        SameBytesOutside a n s t)) ∧
    ((r.size = 3#2 ∨ ((r.size, n) ∈ [(1#2, 2), (2#2, 4)] ∧
        (a % n ≠ 0 ∨ s.params.lmemSize < a + n))) →
      step s = .next { s with inputs := rest,
                              replies := (if r.we then .ack else .data 0) :: s.replies })

/-- R118: while busy an access to the LMEM window is held, unanswered; when BUSY = 0 the oldest held
access is performed before anything else, as an access made then would be. That the accesses wait in a
queue is the model's choice (log 2); that a misaligned access or one of the reserved size is held like any
other is the model's inference (DEDUCED, log 11). -/
def Obligations.held_accesses : Prop :=
  ∀ (s : State) (r : HostReq) (rest : List HostMove), 0x1000000 ≤ r.addr.toNat →
    r.addr.toNat < 0x1000000 + s.params.lmemSize → s.inReset = false →
    (s.busy = true → s.inputs = .access r :: rest →
      step s = .next { s with inputs := rest, held := s.held ++ [r] }) ∧
    (∀ later, s.busy = false → s.held = r :: later →
      ∃ t, step { s with held := [], inputs := .access r :: s.inputs } = .next t ∧
        step s = .next { t with held := later })

/-- R116, R1404: while busy, no host access but a soft reset changes CP, CMD_COUNT, the cursors, CLP,
STATUS, ERR_CODE or a byte of LMEM, and only a write to IRQ_EN changes IRQ_EN. -/
def Obligations.busy_accesses_harmless : Prop :=
  ∀ (s : State) (r : HostReq) (rest : List HostMove), HostTurn s r rest → s.busy = true →
    s.done = false → s.err = false → ¬ isSrst r →
    ∃ t, step s = .next t ∧ t.params = s.params ∧ SameStatus s t ∧ t.cp = s.cp ∧
      t.cmdCount = s.cmdCount ∧ SameInput s t ∧ SameOutput s t ∧ t.clp = s.clp ∧
      t.lmem = s.lmem ∧ t.lmemDraw = s.lmemDraw ∧ t.boundaries = s.boundaries ∧ t.inputs = rest ∧
      ((t.doneIe = s.doneIe ∧ t.errIe = s.errIe) ∨
        ∃ v, r = writeReq 0x00C v ∧ t.doneIe = v.getLsbD 1 ∧ t.errIe = v.getLsbD 2)

/-- R117: while busy, a read of CP, CMD_COUNT, INP or OUTP returns the value of some boundary of the
running list that has been reached, and changes no register. -/
def Obligations.busy_reads_see_a_boundary : Prop :=
  ∀ (s : State) (off : BitVec 25) (field : Boundary → Word) (rest : List HostMove), Legal s →
    HostTurn s (readReq off) rest → s.busy = true →
    ((off = 0x014#25 ∧ field = Boundary.cp) ∨ (off = 0x01C#25 ∧ field = Boundary.cmdCount) ∨
      (off = 0x020#25 ∧ field = Boundary.inp) ∨ (off = 0x028#25 ∧ field = Boundary.outp)) →
    ∃ b ∈ s.boundaries,
      step s = .next { s with inputs := rest, replies := .data (field b) :: s.replies,
                              draws := s.draws + 1 }

/-! ## Errors -/

/-- R304, R1302: every command with a DIMS operand raises E_DIMS where h = 0 or w = 0, whatever its
other operands are. -/
def Obligations.zero_dimensions_refused : Prop :=
  ∀ (s : State) (a b c d e dims : Word), (dimsH dims = 0 ∨ dimsW dims = 0) →
    ∀ i ∈ [Instr.cscf a b c d dims, .csci a b c d dims, .subs a b dims, .ups a b dims,
      .qplane a b dims, .qplaneC a b dims, .dqplane a b dims, .dqplaneC a b dims, .ser a b dims,
      .serC a b dims, .deser a b dims, .deserC a b dims, .me a b c d dims e, .psub a b c d dims,
      .psubC a b c d dims, .padd a b c d dims, .paddC a b c d dims],
      exec i s = .next (errorHalt .dims s)

/-- R308, R1303: a command whose operand words are ill-formed by themselves never completes and
changes no byte of LMEM; it halts with E_DIMS, E_ARG, E_RANGE or E_ALIGN. (What counts as ill-formed
by itself is the model's choice, log 20.) -/
def Obligations.ill_formed_refused : Prop :=
  ∀ (i : Instr) (s : State), i.wellFormed = false →
    ∃ e ∈ [ErrCode.dims, .arg, .range, .align], exec i s = .next (errorHalt e s)

/-- R1304, R1001, R1003: a ZRLE whose code does not fit and a ZRLD whose stream is malformed halt with
their error; only bytes of the destination region may change, and the cursors keep their values. -/
def Obligations.stream_errors : Prop :=
  (∀ (s : State) (src n : Word), ReadyZrle s src n →
    s.outEnd.toNat < s.outp.toNat + (zrlEncode (readBytes s src.toNat n.toNat)).length →
    ∃ t, exec (.zrle src n) s = .next t ∧ ErrorHalted .overflow s t ∧
      SameBytesOutside s.outp.toNat (s.outEnd.toNat - s.outp.toNat) s t) ∧
  (∀ (s : State) (dst n : Word), ReadyZrld s dst n →
    zrlDecode (readBytes s s.inp.toNat (s.inEnd.toNat - s.inp.toNat)) n.toNat = none →
    ∃ t, exec (.zrld dst n) s = .next t ∧ ErrorHalted .malformed s t ∧
      SameBytesOutside dst.toNat n.toNat s t)

/-- R1304, R803: QUANT and QPLANE, in both forms, halt with E_NUMERIC where a quotient is a NaN; only
bytes of the destination region may change. -/
def Obligations.nan_quotient_halts : Prop :=
  (∀ (s : State) (c : Bool) (src dst : Word), ReadyMove s src 512 true dst 64 false →
    (∃ k, k < 64 ∧ f64IsNaN (quotientRule (tableOf c s)
      (fun x y => readF64 s (src.toNat + 8 * (8 * x + y))) k) = true) →
    ∃ t, exec (if c then .quantC src dst else .quant src dst) s = .next t ∧
      ErrorHalted .numeric s t ∧ SameBytesOutside dst.toNat 64 s t) ∧
  (∀ (s : State) (c : Bool) (src dst d : Word), DimsLegal d →
    let ph := planeRows c d
    let pw := planeCols c d
    ReadyMove s src (8 * ph * pw) true dst (pad8 ph * pad8 pw) false →
    (∃ bi bj k, bi < pad8 ph / 8 ∧ bj < pad8 pw / 8 ∧ k < 64 ∧
      f64IsNaN (quotientRule (tableOf c s)
        (fun x y => paddedSample s src.toNat ph pw (8 * bi + x) (8 * bj + y)) k) = true) →
    ∃ t, exec (if c then .qplaneC src dst d else .qplane src dst d) s = .next t ∧
      ErrorHalted .numeric s t ∧ SameBytesOutside dst.toNat (pad8 ph * pad8 pw) s t)

/-! ## Control and stream commands -/

/-- R410, R411, R400: NOP and HALT complete in every state. -/
def Obligations.nop_and_halt : Prop :=
  ∀ s : State,
    (∃ t, exec .nop s = .next t ∧ CompletedQuietly s t ∧ SameBytes s t) ∧
    (∃ t, exec .halt s = .next t ∧ SameControl s t ∧ SameInput s t ∧ SameOutput s t ∧
      SameBytes s t ∧ Advanced s t ∧ t.busy = false ∧ t.done = true ∧ t.err = s.err ∧
      t.errCode = s.errCode)

/-- R412, R413: SETIN and SETOUT complete when addr ≤ end ≤ LMEM_SIZE and set their pair; otherwise
they raise E_ARG, then E_RANGE. -/
def Obligations.setin_and_setout : Prop :=
  ∀ (s : State) (addr stop : Word),
    (addr.toNat ≤ stop.toNat → stop.toNat ≤ s.params.lmemSize →
      (∃ t, exec (.setin addr stop) s = .next t ∧ Completed s t ∧ SameBytes s t ∧ SameOutput s t ∧
        t.inp = addr ∧ t.inEnd = stop) ∧
      (∃ t, exec (.setout addr stop) s = .next t ∧ Completed s t ∧ SameBytes s t ∧ SameInput s t ∧
        t.outp = addr ∧ t.outEnd = stop)) ∧
    (∀ i ∈ [Instr.setin addr stop, .setout addr stop],
      (stop.toNat < addr.toNat → exec i s = .next (errorHalt .arg s)) ∧
      (addr.toNat ≤ stop.toNat → s.params.lmemSize < stop.toNat →
        exec i s = .next (errorHalt .range s)))

/-- R414: SPUT copies n bytes to the output stream and moves OUTP past them. -/
def Obligations.sput_result : Prop :=
  ∀ (s : State) (src n : Word), ReadySput s src n →
    ∃ t, exec (.sput src n) s = .next t ∧ Completed s t ∧ SameInput s t ∧ t.outEnd = s.outEnd ∧
      t.outp.toNat = s.outp.toNat + n.toNat ∧
      (∀ j, j < n.toNat → readByte t (s.outp.toNat + j) = readByte s (src.toNat + j)) ∧
      SameBytesOutside s.outp.toNat n.toNat s t

/-- R415: SGET copies n bytes from the input stream and moves INP past them. -/
def Obligations.sget_result : Prop :=
  ∀ (s : State) (dst n : Word), ReadySget s dst n →
    ∃ t, exec (.sget dst n) s = .next t ∧ Completed s t ∧ SameOutput s t ∧ t.inEnd = s.inEnd ∧
      t.inp.toNat = s.inp.toNat + n.toNat ∧
      (∀ j, j < n.toNat → readByte t (dst.toNat + j) = readByte s (s.inp.toNat + j)) ∧
      SameBytesOutside dst.toNat n.toNat s t

/-! ## Colour and subsampling -/

/-- R510, R501: CSCF writes Y, Cb and Cr of every pixel, in the rule's order of operations. -/
def Obligations.cscf_result : Prop :=
  ∀ (s : State) (src y cb cr d : Word), ReadyCscf s src y cb cr d →
    let h := dimsH d
    let w := dimsW d
    let k := s.params.csc
    ∃ t, exec (.cscf src y cb cr d) s = .next t ∧ CompletedQuietly s t ∧
      SameBytesOutsideRegions [⟨y.toNat, 8 * h * w⟩, ⟨cb.toNat, 8 * h * w⟩, ⟨cr.toNat, 8 * h * w⟩] s t ∧
      ∀ r c, r < h → c < w →
        let red := f64OfInt (readByte s (src.toNat + 3 * (r * w + c))).toNat
        let green := f64OfInt (readByte s (src.toNat + 3 * (r * w + c) + 1)).toNat
        let blue := f64OfInt (readByte s (src.toNat + 3 * (r * w + c) + 2)).toNat
        readF64 t (y.toNat + 8 * (r * w + c)) =
          fadd (fadd (fmul k.yr red) (fmul k.yg green)) (fmul k.yb blue) ∧
        readF64 t (cb.toNat + 8 * (r * w + c)) =
          fadd (fadd (fadd (fmul k.br red) (fmul k.bg green)) (fmul k.bb blue)) (f64OfInt 128) ∧
        readF64 t (cr.toNat + 8 * (r * w + c)) =
          fadd (fadd (fadd (fmul k.rr red) (fmul k.rg green)) (fmul k.rb blue)) (f64OfInt 128)

/-- R511, R502: CSCI writes the three bytes of every pixel, each the toU8 of its channel, unless some
channel is a NaN; then it halts with E_NUMERIC and only the raster may change (R1304). -/
def Obligations.csci_result : Prop :=
  ∀ (s : State) (y cb cr dst d : Word), ReadyCsci s y cb cr dst d →
    let h := dimsH d
    let w := dimsW d
    let channel := csciChannel s y cb cr w
    ((∀ j r c, j < 3 → r < h → c < w → f64IsNaN (channel j r c) = false) →
      ∃ t, exec (.csci y cb cr dst d) s = .next t ∧ CompletedQuietly s t ∧
        SameBytesOutside dst.toNat (3 * h * w) s t ∧
        ∀ j r c, j < 3 → r < h → c < w → ∃ n, toU8 (channel j r c) = some n ∧
          readByte t (dst.toNat + 3 * (r * w + c) + j) = BitVec.ofInt 8 n) ∧
    ((∃ j r c, j < 3 ∧ r < h ∧ c < w ∧ f64IsNaN (channel j r c) = true) →
      ∃ t, exec (.csci y cb cr dst d) s = .next t ∧ ErrorHalted .numeric s t ∧
        SameBytesOutside dst.toNat (3 * h * w) s t)

/-- R610, R601: SUBS keeps the top-left sample of every 2×2 group, bit for bit. -/
def Obligations.subs_result : Prop :=
  ∀ (s : State) (src dst d : Word), DimsLegal d →
    let h := dimsH d
    let w := dimsW d
    let cw := ceilDiv w 2
    ReadyMove s src (8 * h * w) true dst (8 * ceilDiv h 2 * cw) true →
    ∃ t, exec (.subs src dst d) s = .next t ∧ CompletedQuietly s t ∧
      SameBytesOutside dst.toNat (8 * ceilDiv h 2 * cw) s t ∧
      ∀ r c, r < ceilDiv h 2 → c < cw →
        readF64 t (dst.toNat + 8 * (r * cw + c)) = readF64 s (src.toNat + 8 * (2 * r * w + 2 * c))

/-- R611, R602: UPS replicates every sample over its 2×2 footprint, bit for bit. -/
def Obligations.ups_result : Prop :=
  ∀ (s : State) (src dst d : Word), DimsLegal d →
    let h := dimsH d
    let w := dimsW d
    let cw := ceilDiv w 2
    ReadyMove s src (8 * ceilDiv h 2 * cw) true dst (8 * h * w) true →
    ∃ t, exec (.ups src dst d) s = .next t ∧ CompletedQuietly s t ∧
      SameBytesOutside dst.toNat (8 * h * w) s t ∧
      ∀ r c, r < h → c < w →
        readF64 t (dst.toNat + 8 * (r * w + c)) = readF64 s (src.toNat + 8 * (r / 2 * cw + c / 2))

/-- R603: UPS after SUBS has at every sample of a 2×2 footprint the source's top-left sample of it. -/
def Obligations.subsample_round_trip : Prop :=
  ∀ (s : State) (src mid dst d : Word), DimsLegal d →
    let h := dimsH d
    let w := dimsW d
    ReadyMove s src (8 * h * w) true mid (8 * ceilDiv h 2 * ceilDiv w 2) true →
    ReadyMove s mid (8 * ceilDiv h 2 * ceilDiv w 2) true dst (8 * h * w) true →
    ∃ t u, exec (.subs src mid d) s = .next t ∧ exec (.ups mid dst d) t = .next u ∧
      ∀ r c, r < h → c < w →
        readF64 u (dst.toNat + 8 * (r * w + c)) =
          readF64 s (src.toNat + 8 * (2 * (r / 2) * w + 2 * (c / 2)))

/-! ## Transform and quantizer -/

/-- R710, R702: FDCT writes the 64 sums of the rule, in its order of operations. -/
def Obligations.fdct_result : Prop :=
  ∀ (s : State) (src dst : Word), ReadyMove s src 512 true dst 512 true →
    ∃ t, exec (.fdct src dst) s = .next t ∧ CompletedQuietly s t ∧
      SameBytesOutside dst.toNat 512 s t ∧
      ∀ u v, u < 8 → v < 8 → readF64 t (dst.toNat + 8 * (8 * u + v)) =
        fdctRule (fun x y => readF64 s (src.toNat + 8 * (8 * x + y))) u v

/-- R711, R703: IDCT writes the 64 sums of the rule, in its order of operations. -/
def Obligations.idct_result : Prop :=
  ∀ (s : State) (src dst : Word), ReadyMove s src 512 true dst 512 true →
    ∃ t, exec (.idct src dst) s = .next t ∧ CompletedQuietly s t ∧
      SameBytesOutside dst.toNat 512 s t ∧
      ∀ x y, x < 8 → y < 8 → readF64 t (dst.toNat + 8 * (8 * x + y)) =
        idctRule (fun u v => readF64 s (src.toNat + 8 * (8 * u + v))) x y

/-- R810, R803, R802: QUANT and QUANT.C write the toI8 of every quotient, when no quotient is a NaN. -/
def Obligations.quant_result : Prop :=
  ∀ (s : State) (c : Bool) (src dst : Word), ReadyMove s src 512 true dst 64 false →
    let q := quotientRule (tableOf c s) (fun x y => readF64 s (src.toNat + 8 * (8 * x + y)))
    (∀ k, k < 64 → f64IsNaN (q k) = false) →
    ∃ t, exec (if c then .quantC src dst else .quant src dst) s = .next t ∧ CompletedQuietly s t ∧
      SameBytesOutside dst.toNat 64 s t ∧
      ∀ k, k < 64 → ∃ n, toI8 (q k) = some n ∧ readI8 t (dst.toNat + k) = n

/-- R811, R805, R802: DEQUANT and DEQUANT.C write the inverse transform of the products. -/
def Obligations.dequant_result : Prop :=
  ∀ (s : State) (c : Bool) (src dst : Word), ReadyMove s src 64 false dst 512 true →
    ∃ t, exec (if c then .dequantC src dst else .dequant src dst) s = .next t ∧
      CompletedQuietly s t ∧ SameBytesOutside dst.toNat 512 s t ∧
      ∀ x y, x < 8 → y < 8 → readF64 t (dst.toNat + 8 * (8 * x + y)) =
        dequantRule (tableOf c s) (fun k => readI8 s (src.toNat + k)) x y

/-- R812, R803, R808: QPLANE and QPLANE.C write every coefficient of every block of the padded
plane. -/
def Obligations.qplane_result : Prop :=
  ∀ (s : State) (c : Bool) (src dst d : Word), DimsLegal d →
    let ph := planeRows c d
    let pw := planeCols c d
    ReadyMove s src (8 * ph * pw) true dst (pad8 ph * pad8 pw) false →
    let q := fun bi bj => quotientRule (tableOf c s)
      (fun x y => paddedSample s src.toNat ph pw (8 * bi + x) (8 * bj + y))
    (∀ bi bj k, bi < pad8 ph / 8 → bj < pad8 pw / 8 → k < 64 → f64IsNaN (q bi bj k) = false) →
    ∃ t, exec (if c then .qplaneC src dst d else .qplane src dst d) s = .next t ∧
      CompletedQuietly s t ∧ SameBytesOutside dst.toNat (pad8 ph * pad8 pw) s t ∧
      ∀ bi bj k, bi < pad8 ph / 8 → bj < pad8 pw / 8 → k < 64 →
        ∃ n, toI8 (q bi bj k) = some n ∧
          readI8 t (dst.toNat + (8 * bi + k / 8) * pad8 pw + 8 * bj + k % 8) = n

/-- R813, R805: DQPLANE and DQPLANE.C write every in-plane sample of every dequantized block. -/
def Obligations.dqplane_result : Prop :=
  ∀ (s : State) (c : Bool) (src dst d : Word), DimsLegal d →
    let ph := planeRows c d
    let pw := planeCols c d
    ReadyMove s src (pad8 ph * pad8 pw) false dst (8 * ph * pw) true →
    ∃ t, exec (if c then .dqplaneC src dst d else .dqplane src dst d) s = .next t ∧
      CompletedQuietly s t ∧ SameBytesOutside dst.toNat (8 * ph * pw) s t ∧
      ∀ bi bj x y, x < 8 → y < 8 → 8 * bi + x < ph → 8 * bj + y < pw →
        readF64 t (dst.toNat + 8 * ((8 * bi + x) * pw + 8 * bj + y)) =
          dequantRule (tableOf c s)
            (fun k => readI8 s (src.toNat + (8 * bi + k / 8) * pad8 pw + 8 * bj + k % 8)) x y

/-- R806, R705: a block of zeros of either sign quantizes to 64 zeros, and those dequantize to 64
samples +0.0, with any legal table. -/
def Obligations.zero_block : Prop :=
  ∀ (s : State) (c : Bool) (src mid dst : Word), s.params.legal = true →
    ReadyMove s src 512 true mid 64 false → ReadyMove s mid 64 false dst 512 true →
    (∀ k, k < 64 → f64IsZero (readF64 s (src.toNat + 8 * k)) = true) →
    ∃ t u, exec (if c then .quantC src mid else .quant src mid) s = .next t ∧
      exec (if c then .dequantC mid dst else .dequant mid dst) t = .next u ∧
      (∀ k, k < 64 → readByte t (mid.toNat + k) = 0) ∧
      ∀ k, k < 64 → readF64 u (dst.toNat + 8 * k) = 0x0000000000000000#64

/-- R19, R20, R21: the conversions to integers. A finite datum x stands for f64Value x units of
2^-1074. -/
def Obligations.conversions : Prop :=
  ∀ x : F64,
    (f64Exponent x ≠ 2047 →
      rhaz x = (if f64Sign x then -1 else 1) * ⌊|(f64Value x : ℚ) / 2 ^ 1074| + 1 / 2⌋ ∧
      toI8 x = some (min (max (rhaz x) (-128)) 127) ∧
      toU8 x = some (if (f64Value x : ℚ) / 2 ^ 1074 < 0 then 0
        else if 255 < (f64Value x : ℚ) / 2 ^ 1074 then 255 else rhaz x)) ∧
    (f64IsNaN x = true → toI8 x = none ∧ toU8 x = none) ∧
    (f64IsInf x = true → toI8 x = some (if f64Sign x then -128 else 127) ∧
      toU8 x = some (if f64Sign x then 0 else 255))

/-! ## Zigzag -/

/-- R910, R911: ZZ and UNZZ move every byte of a block along the walk. -/
def Obligations.zz_and_unzz : Prop :=
  ∀ (s : State) (src dst : Word), ReadyMove s src 64 false dst 64 false →
    (∃ t, exec (.zz src dst) s = .next t ∧ CompletedQuietly s t ∧ SameBytesOutside dst.toNat 64 s t ∧
      ∀ j, j < 64 → readByte t (dst.toNat + j) = readByte s (src.toNat + zzEntry j)) ∧
    (∃ t, exec (.unzz src dst) s = .next t ∧ CompletedQuietly s t ∧
      SameBytesOutside dst.toNat 64 s t ∧
      ∀ j, j < 64 → readByte t (dst.toNat + zzEntry j) = readByte s (src.toNat + j))

/-- R912, R902: SER and SER.C write the tiles in row-major order, each in zigzag order. -/
def Obligations.ser_result : Prop :=
  ∀ (s : State) (c : Bool) (src dst d : Word), DimsLegal d →
    let PH := pad8 (planeRows c d)
    let PW := pad8 (planeCols c d)
    ReadyMove s src (PH * PW) false dst (PH * PW) false →
    ∃ t, exec (if c then .serC src dst d else .ser src dst d) s = .next t ∧ CompletedQuietly s t ∧
      SameBytesOutside dst.toNat (PH * PW) s t ∧
      ∀ bi bj j, bi < PH / 8 → bj < PW / 8 → j < 64 →
        readByte t (dst.toNat + 64 * (bi * (PW / 8) + bj) + j) =
          readByte s (src.toNat + (8 * bi + zzEntry j / 8) * PW + 8 * bj + zzEntry j % 8)

/-- R913, R902: DESER and DESER.C put every entry back to its place in its tile. -/
def Obligations.deser_result : Prop :=
  ∀ (s : State) (c : Bool) (src dst d : Word), DimsLegal d →
    let PH := pad8 (planeRows c d)
    let PW := pad8 (planeCols c d)
    ReadyMove s src (PH * PW) false dst (PH * PW) false →
    ∃ t, exec (if c then .deserC src dst d else .deser src dst d) s = .next t ∧
      CompletedQuietly s t ∧ SameBytesOutside dst.toNat (PH * PW) s t ∧
      ∀ bi bj j, bi < PH / 8 → bj < PW / 8 → j < 64 →
        readByte t (dst.toNat + (8 * bi + zzEntry j / 8) * PW + 8 * bj + zzEntry j % 8) =
          readByte s (src.toNat + 64 * (bi * (PW / 8) + bj) + j)

/-- R903: DESER after SER, and SER after DESER, with the same DIMS and C, give back every byte. -/
def Obligations.zigzag_round_trip : Prop :=
  ∀ (s : State) (c : Bool) (src mid dst d : Word), DimsLegal d →
    let n := pad8 (planeRows c d) * pad8 (planeCols c d)
    let ser := fun a b => if c then Instr.serC a b d else .ser a b d
    let deser := fun a b => if c then Instr.deserC a b d else .deser a b d
    ReadyMove s src n false mid n false → ReadyMove s mid n false dst n false →
    (∃ t u, exec (ser src mid) s = .next t ∧ exec (deser mid dst) t = .next u ∧
      ∀ k, k < n → readByte u (dst.toNat + k) = readByte s (src.toNat + k)) ∧
    (∃ t u, exec (deser src mid) s = .next t ∧ exec (ser mid dst) t = .next u ∧
      ∀ k, k < n → readByte u (dst.toNat + k) = readByte s (src.toNat + k))

/-! ## Zero-run codec -/

/-- R1001: what the encoder emits for a literal, and for a maximal run of z zeros: z div 255 pairs
(0, 255), then one pair (0, z mod 255) only if z mod 255 > 0. -/
def Obligations.zrl_encoding : Prop :=
  zrlEncode [] = [] ∧
  (∀ (b : Byte) (rest : List Byte), b ≠ 0 → zrlEncode (b :: rest) = b :: zrlEncode rest) ∧
  (∀ (z : Nat) (rest : List Byte), rest.head? ≠ some 0 →
    zrlEncode (List.replicate z 0 ++ rest) =
      (List.replicate (z / 255) [0x00#8, 0xFF#8]).flatten ++
        (if z % 255 = 0 then [] else [0x00#8, BitVec.ofNat 8 (z % 255)]) ++ zrlEncode rest)

/-- R1000, R1003, R1004: decoding succeeds exactly where the stream begins with tokens that stand for
n values, none of them read once n values are there; it gives those values and the tokens' length. -/
def Obligations.zrl_decoding : Prop :=
  ∀ (stream : List Byte) (n : Nat) (values : List Byte) (used : Nat),
    zrlDecode stream n = some (values, used) ↔
      ∃ (tokens : List Token) (rest : List Byte),
        stream = tokens.flatMap Token.bytes ++ rest ∧
        (∀ x ∈ tokens, x.legal = true) ∧
        used = (tokens.flatMap Token.bytes).length ∧
        values = tokens.flatMap Token.values ∧
        values.length = n ∧
        ∀ k, k < tokens.length → ((tokens.take k).flatMap Token.values).length < n

/-- R1005: decoding an encoded sequence gives the sequence and consumes exactly its code. -/
def Obligations.zrl_round_trip : Prop :=
  ∀ (values rest : List Byte),
    zrlDecode (zrlEncode values ++ rest) values.length =
      some (values, (zrlEncode values).length)

/-- R1002: the length of the code, its worst case, and the room that never raises E_OVERFLOW. -/
def Obligations.zrl_length : Prop :=
  (∀ values : List Byte, (zrlEncode values).length ≤ (3 * values.length + 1) / 2) ∧
  (∀ bs : List Byte, (∀ b ∈ bs, b ≠ 0) →
    let worst := 0 :: bs.flatMap fun b => [b, 0]
    (zrlEncode worst).length = (3 * worst.length + 1) / 2) ∧
  (∀ z : Nat, (zrlEncode (List.replicate z 0)).length = 2 * ceilDiv z 255) ∧
  (∀ (s : State) (src n : Word), ReadyZrle s src n →
    s.outp.toNat + (3 * n.toNat + 1) / 2 ≤ s.outEnd.toNat →
    ∃ t, exec (.zrle src n) s = .next t ∧ Completed s t)

/-- R1010: ZRLE appends the code of n values to the output stream and moves OUTP past it. -/
def Obligations.zrle_result : Prop :=
  ∀ (s : State) (src n : Word), ReadyZrle s src n →
    let out := zrlEncode (readBytes s src.toNat n.toNat)
    s.outp.toNat + out.length ≤ s.outEnd.toNat →
    ∃ t, exec (.zrle src n) s = .next t ∧ Completed s t ∧ SameInput s t ∧ t.outEnd = s.outEnd ∧
      t.outp.toNat = s.outp.toNat + out.length ∧
      readBytes t s.outp.toNat out.length = out ∧
      SameBytesOutside s.outp.toNat out.length s t

/-- R1011: ZRLD writes the n decoded values and moves INP past the bytes consumed. -/
def Obligations.zrld_result : Prop :=
  ∀ (s : State) (dst n : Word) (values : List Byte) (used : Nat), ReadyZrld s dst n →
    zrlDecode (readBytes s s.inp.toNat (s.inEnd.toNat - s.inp.toNat)) n.toNat = some (values, used) →
    ∃ t, exec (.zrld dst n) s = .next t ∧ Completed s t ∧ SameOutput s t ∧ t.inEnd = s.inEnd ∧
      t.inp.toNat = s.inp.toNat + used ∧
      readBytes t dst.toNat n.toNat = values ∧
      SameBytesOutside dst.toNat n.toNat s t

/-! ## Motion -/

/-- R1110, R1106, R1107: ME writes the vector of every macroblock and the residual of every sample. The
vector is that of the search written out in Safety.lean: the score of R1105, the rounds at the steps from
ceil_div(R, 2) down to 1, the eight neighbours in order, the strict comparison. -/
def Obligations.me_result : Prop :=
  ∀ (s : State) (ref tgt vec res d radius : Word), ReadyMe s ref tgt vec res d radius →
    let h := dimsH d
    let w := dimsW d
    let mbc := ceilDiv w 8
    let tgtAt := fun r c => readF64 s (tgt.toNat + 8 * (r * w + c))
    let refAt := fun r c => readF64 s (ref.toNat + 8 * (r * w + c))
    ∃ t, exec (.me ref tgt vec res d radius) s = .next t ∧ CompletedQuietly s t ∧
      SameBytesOutsideRegions [⟨vec.toNat, 2 * ceilDiv h 8 * mbc⟩, ⟨res.toNat, 8 * h * w⟩] s t ∧
      ∀ mr mc, mr < ceilDiv h 8 → mc < mbc →
        let v := searchRule h w tgtAt refAt mr mc radius.toNat
        readI8 t (vec.toNat + 2 * (mr * mbc + mc)) = v.1 ∧
        readI8 t (vec.toNat + 2 * (mr * mbc + mc) + 1) = v.2 ∧
        ∀ x y, x < min 8 (h - 8 * mr) → y < min 8 (w - 8 * mc) →
          readF64 t (res.toNat + 8 * ((8 * mr + x) * w + 8 * mc + y)) =
            fsub (tgtAt (8 * mr + x) (8 * mc + y))
              (refAt (8 * mr + x + v.2).toNat (8 * mc + y + v.1).toNat)

/-- R1103, R1104: every vector ME writes keeps its macroblock inside the reference plane and is at most
127 in both directions. -/
def Obligations.search_vectors_valid : Prop :=
  ∀ (s : State) (ref tgt vec res d radius : Word), ReadyMe s ref tgt vec res d radius →
    let h := dimsH d
    let w := dimsW d
    let mbc := ceilDiv w 8
    ∃ t, exec (.me ref tgt vec res d radius) s = .next t ∧
      ∀ mr mc, mr < ceilDiv h 8 → mc < mbc →
        let dx := readI8 t (vec.toNat + 2 * (mr * mbc + mc))
        let dy := readI8 t (vec.toNat + 2 * (mr * mbc + mc) + 1)
        ValidRule h w (8 * mr) (8 * mc) (min 8 (h - 8 * mr)) (min 8 (w - 8 * mc)) dx dy ∧
        |dx| ≤ 127 ∧ |dy| ≤ 127

/-- R1111, R1112, R1109: PSUB, PSUB.C, PADD and PADD.C write each sample less, or plus, its
prediction: the reference sample at the vector of macroblock (r div 8)·MBC + (c div 8), each
coordinate clamped to the plane. -/
def Obligations.compensation_results : Prop :=
  ∀ (s : State) (c : Bool) (base ref vec dst d : Word), ReadyCompensate s c base ref vec dst d →
    let ph := planeRows c d
    let pw := planeCols c d
    let at_ := fun (p : Word) r k => readF64 s (p.toNat + 8 * (r * pw + k))
    let pred := fun r k =>
      let m := r / 8 * ceilDiv (dimsW d) 8 + k / 8
      let dx := readI8 s (vec.toNat + 2 * m)
      let dy := readI8 s (vec.toNat + 2 * m + 1)
      at_ ref (min (max ((r : Int) + dy) 0) (ph - 1)).toNat (min (max ((k : Int) + dx) 0) (pw - 1)).toNat
    (∃ t, exec (if c then .psubC base ref vec dst d else .psub base ref vec dst d) s = .next t ∧
      CompletedQuietly s t ∧ SameBytesOutside dst.toNat (8 * ph * pw) s t ∧
      ∀ r k, r < ph → k < pw →
        readF64 t (dst.toNat + 8 * (r * pw + k)) = fsub (at_ base r k) (pred r k)) ∧
    (∃ t, exec (if c then .paddC base ref vec dst d else .padd base ref vec dst d) s = .next t ∧
      CompletedQuietly s t ∧ SameBytesOutside dst.toNat (8 * ph * pw) s t ∧
      ∀ r k, r < ph → k < pw →
        readF64 t (dst.toNat + 8 * (r * pw + k)) = fadd (at_ base r k) (pred r k))

/-- R1108: the residual ME writes is bit for bit what PSUB writes with the vectors ME wrote. -/
def Obligations.me_residual_is_psub : Prop :=
  ∀ (s : State) (ref tgt vec res dst d radius : Word), ReadyMe s ref tgt vec res d radius →
    ReadyCompensate s false tgt ref vec dst d →
    ∃ t u, exec (.me ref tgt vec res d radius) s = .next t ∧
      exec (.psub tgt ref vec dst d) t = .next u ∧
      ∀ r c, r < dimsH d → c < dimsW d →
        readF64 u (dst.toNat + 8 * (r * dimsW d + c)) = readF64 t (res.toNat + 8 * (r * dimsW d + c))

/-- R1113: where target and reference hold the same samples, ME gives the zero vector for every
macroblock, +0.0 as the residual of every finite sample, and a NaN as that of an infinite one. -/
def Obligations.me_of_equal_planes : Prop :=
  ∀ (s : State) (ref tgt vec res d radius : Word), ReadyMe s ref tgt vec res d radius →
    (∀ k, k < dimsH d * dimsW d → readF64 s (tgt.toNat + 8 * k) = readF64 s (ref.toNat + 8 * k)) →
    ∃ t, exec (.me ref tgt vec res d radius) s = .next t ∧
      (∀ k, k < 2 * ceilDiv (dimsH d) 8 * ceilDiv (dimsW d) 8 → readByte t (vec.toNat + k) = 0) ∧
      ∀ k, k < dimsH d * dimsW d →
        (f64Exponent (readF64 s (tgt.toNat + 8 * k)) ≠ 2047 →
          readF64 t (res.toNat + 8 * k) = 0x0000000000000000#64) ∧
        (f64IsInf (readF64 s (tgt.toNat + 8 * k)) = true →
          f64IsNaN (readF64 t (res.toNat + 8 * k)) = true)
end

