-- ==== Sys2Proof/Laws/State.lean ====
section
/-! SUPPORT. One lemma per field of State per update of Machine/Ops.lean, Machine/Control.lean and
Machine/HostPort.lean: what the field holds afterwards. -/

namespace Sys2Proof.Machine

variable (s : State)

/-! ## writeBytes -/

@[simp] theorem writeBytes_params (base : Nat) (bytes : List Byte) :
    (writeBytes s base bytes).params = s.params := rfl
@[simp] theorem writeBytes_busy (base : Nat) (bytes : List Byte) :
    (writeBytes s base bytes).busy = s.busy := rfl
@[simp] theorem writeBytes_done (base : Nat) (bytes : List Byte) :
    (writeBytes s base bytes).done = s.done := rfl
@[simp] theorem writeBytes_err (base : Nat) (bytes : List Byte) :
    (writeBytes s base bytes).err = s.err := rfl
@[simp] theorem writeBytes_doneIe (base : Nat) (bytes : List Byte) :
    (writeBytes s base bytes).doneIe = s.doneIe := rfl
@[simp] theorem writeBytes_errIe (base : Nat) (bytes : List Byte) :
    (writeBytes s base bytes).errIe = s.errIe := rfl
@[simp] theorem writeBytes_clp (base : Nat) (bytes : List Byte) :
    (writeBytes s base bytes).clp = s.clp := rfl
@[simp] theorem writeBytes_cp (base : Nat) (bytes : List Byte) :
    (writeBytes s base bytes).cp = s.cp := rfl
@[simp] theorem writeBytes_errCode (base : Nat) (bytes : List Byte) :
    (writeBytes s base bytes).errCode = s.errCode := rfl
@[simp] theorem writeBytes_cmdCount (base : Nat) (bytes : List Byte) :
    (writeBytes s base bytes).cmdCount = s.cmdCount := rfl
@[simp] theorem writeBytes_inp (base : Nat) (bytes : List Byte) :
    (writeBytes s base bytes).inp = s.inp := rfl
@[simp] theorem writeBytes_inEnd (base : Nat) (bytes : List Byte) :
    (writeBytes s base bytes).inEnd = s.inEnd := rfl
@[simp] theorem writeBytes_outp (base : Nat) (bytes : List Byte) :
    (writeBytes s base bytes).outp = s.outp := rfl
@[simp] theorem writeBytes_outEnd (base : Nat) (bytes : List Byte) :
    (writeBytes s base bytes).outEnd = s.outEnd := rfl
@[simp] theorem writeBytes_lmem (base : Nat) (bytes : List Byte) :
    (writeBytes s base bytes).lmem = s.lmem.write base bytes := rfl
@[simp] theorem writeBytes_inReset (base : Nat) (bytes : List Byte) :
    (writeBytes s base bytes).inReset = s.inReset := rfl
@[simp] theorem writeBytes_held (base : Nat) (bytes : List Byte) :
    (writeBytes s base bytes).held = s.held := rfl
@[simp] theorem writeBytes_inputs (base : Nat) (bytes : List Byte) :
    (writeBytes s base bytes).inputs = s.inputs := rfl
@[simp] theorem writeBytes_replies (base : Nat) (bytes : List Byte) :
    (writeBytes s base bytes).replies = s.replies := rfl
@[simp] theorem writeBytes_boundaries (base : Nat) (bytes : List Byte) :
    (writeBytes s base bytes).boundaries = s.boundaries := rfl
@[simp] theorem writeBytes_lmemDraw (base : Nat) (bytes : List Byte) :
    (writeBytes s base bytes).lmemDraw = s.lmemDraw := rfl
@[simp] theorem writeBytes_draws (base : Nat) (bytes : List Byte) :
    (writeBytes s base bytes).draws = s.draws := rfl

/-! ## writeF64s -/

@[simp] theorem writeF64s_params (base : Nat) (xs : List F64) :
    (writeF64s s base xs).params = s.params := rfl
@[simp] theorem writeF64s_busy (base : Nat) (xs : List F64) :
    (writeF64s s base xs).busy = s.busy := rfl
@[simp] theorem writeF64s_done (base : Nat) (xs : List F64) :
    (writeF64s s base xs).done = s.done := rfl
@[simp] theorem writeF64s_err (base : Nat) (xs : List F64) :
    (writeF64s s base xs).err = s.err := rfl
@[simp] theorem writeF64s_doneIe (base : Nat) (xs : List F64) :
    (writeF64s s base xs).doneIe = s.doneIe := rfl
@[simp] theorem writeF64s_errIe (base : Nat) (xs : List F64) :
    (writeF64s s base xs).errIe = s.errIe := rfl
@[simp] theorem writeF64s_clp (base : Nat) (xs : List F64) :
    (writeF64s s base xs).clp = s.clp := rfl
@[simp] theorem writeF64s_cp (base : Nat) (xs : List F64) : (writeF64s s base xs).cp = s.cp := rfl
@[simp] theorem writeF64s_errCode (base : Nat) (xs : List F64) :
    (writeF64s s base xs).errCode = s.errCode := rfl
@[simp] theorem writeF64s_cmdCount (base : Nat) (xs : List F64) :
    (writeF64s s base xs).cmdCount = s.cmdCount := rfl
@[simp] theorem writeF64s_inp (base : Nat) (xs : List F64) :
    (writeF64s s base xs).inp = s.inp := rfl
@[simp] theorem writeF64s_inEnd (base : Nat) (xs : List F64) :
    (writeF64s s base xs).inEnd = s.inEnd := rfl
@[simp] theorem writeF64s_outp (base : Nat) (xs : List F64) :
    (writeF64s s base xs).outp = s.outp := rfl
@[simp] theorem writeF64s_outEnd (base : Nat) (xs : List F64) :
    (writeF64s s base xs).outEnd = s.outEnd := rfl
@[simp] theorem writeF64s_lmem (base : Nat) (xs : List F64) :
    (writeF64s s base xs).lmem = s.lmem.write base (xs.flatMap f64Bytes) := rfl
@[simp] theorem writeF64s_inReset (base : Nat) (xs : List F64) :
    (writeF64s s base xs).inReset = s.inReset := rfl
@[simp] theorem writeF64s_held (base : Nat) (xs : List F64) :
    (writeF64s s base xs).held = s.held := rfl
@[simp] theorem writeF64s_inputs (base : Nat) (xs : List F64) :
    (writeF64s s base xs).inputs = s.inputs := rfl
@[simp] theorem writeF64s_replies (base : Nat) (xs : List F64) :
    (writeF64s s base xs).replies = s.replies := rfl
@[simp] theorem writeF64s_boundaries (base : Nat) (xs : List F64) :
    (writeF64s s base xs).boundaries = s.boundaries := rfl
@[simp] theorem writeF64s_lmemDraw (base : Nat) (xs : List F64) :
    (writeF64s s base xs).lmemDraw = s.lmemDraw := rfl
@[simp] theorem writeF64s_draws (base : Nat) (xs : List F64) :
    (writeF64s s base xs).draws = s.draws := rfl

/-! ## unspecifyRegion -/

@[simp] theorem unspecifyRegion_params (r : Region) : (unspecifyRegion s r).params = s.params := rfl
@[simp] theorem unspecifyRegion_busy (r : Region) : (unspecifyRegion s r).busy = s.busy := rfl
@[simp] theorem unspecifyRegion_done (r : Region) : (unspecifyRegion s r).done = s.done := rfl
@[simp] theorem unspecifyRegion_err (r : Region) : (unspecifyRegion s r).err = s.err := rfl
@[simp] theorem unspecifyRegion_doneIe (r : Region) : (unspecifyRegion s r).doneIe = s.doneIe := rfl
@[simp] theorem unspecifyRegion_errIe (r : Region) : (unspecifyRegion s r).errIe = s.errIe := rfl
@[simp] theorem unspecifyRegion_clp (r : Region) : (unspecifyRegion s r).clp = s.clp := rfl
@[simp] theorem unspecifyRegion_cp (r : Region) : (unspecifyRegion s r).cp = s.cp := rfl
@[simp] theorem unspecifyRegion_errCode (r : Region) :
    (unspecifyRegion s r).errCode = s.errCode := rfl
@[simp] theorem unspecifyRegion_cmdCount (r : Region) :
    (unspecifyRegion s r).cmdCount = s.cmdCount := rfl
@[simp] theorem unspecifyRegion_inp (r : Region) : (unspecifyRegion s r).inp = s.inp := rfl
@[simp] theorem unspecifyRegion_inEnd (r : Region) : (unspecifyRegion s r).inEnd = s.inEnd := rfl
@[simp] theorem unspecifyRegion_outp (r : Region) : (unspecifyRegion s r).outp = s.outp := rfl
@[simp] theorem unspecifyRegion_outEnd (r : Region) : (unspecifyRegion s r).outEnd = s.outEnd := rfl
@[simp] theorem unspecifyRegion_lmem (r : Region) :
    (unspecifyRegion s r).lmem = s.lmem.write r.base ((List.range' r.base r.len).map (Config.freeByte s.draws)) := rfl
@[simp] theorem unspecifyRegion_inReset (r : Region) :
    (unspecifyRegion s r).inReset = s.inReset := rfl
@[simp] theorem unspecifyRegion_held (r : Region) : (unspecifyRegion s r).held = s.held := rfl
@[simp] theorem unspecifyRegion_inputs (r : Region) : (unspecifyRegion s r).inputs = s.inputs := rfl
@[simp] theorem unspecifyRegion_replies (r : Region) :
    (unspecifyRegion s r).replies = s.replies := rfl
@[simp] theorem unspecifyRegion_boundaries (r : Region) :
    (unspecifyRegion s r).boundaries = s.boundaries := rfl
@[simp] theorem unspecifyRegion_lmemDraw (r : Region) :
    (unspecifyRegion s r).lmemDraw = s.lmemDraw := rfl
@[simp] theorem unspecifyRegion_draws (r : Region) :
    (unspecifyRegion s r).draws = s.draws + 1 := rfl

/-! ## advance -/

@[simp] theorem advance_params : (advance s).params = s.params := rfl
@[simp] theorem advance_busy : (advance s).busy = s.busy := rfl
@[simp] theorem advance_done : (advance s).done = s.done := rfl
@[simp] theorem advance_err : (advance s).err = s.err := rfl
@[simp] theorem advance_doneIe : (advance s).doneIe = s.doneIe := rfl
@[simp] theorem advance_errIe : (advance s).errIe = s.errIe := rfl
@[simp] theorem advance_clp : (advance s).clp = s.clp := rfl
@[simp] theorem advance_cp : (advance s).cp = s.cp + 32 := rfl
@[simp] theorem advance_errCode : (advance s).errCode = s.errCode := rfl
@[simp] theorem advance_cmdCount : (advance s).cmdCount = s.cmdCount + 1 := rfl
@[simp] theorem advance_inp : (advance s).inp = s.inp := rfl
@[simp] theorem advance_inEnd : (advance s).inEnd = s.inEnd := rfl
@[simp] theorem advance_outp : (advance s).outp = s.outp := rfl
@[simp] theorem advance_outEnd : (advance s).outEnd = s.outEnd := rfl
@[simp] theorem advance_lmem : (advance s).lmem = s.lmem := rfl
@[simp] theorem advance_inReset : (advance s).inReset = s.inReset := rfl
@[simp] theorem advance_held : (advance s).held = s.held := rfl
@[simp] theorem advance_inputs : (advance s).inputs = s.inputs := rfl
@[simp] theorem advance_replies : (advance s).replies = s.replies := rfl
@[simp] theorem advance_boundaries : (advance s).boundaries = s.boundaries := rfl
@[simp] theorem advance_lmemDraw : (advance s).lmemDraw = s.lmemDraw := rfl
@[simp] theorem advance_draws : (advance s).draws = s.draws := rfl

/-! ## complete -/

@[simp] theorem complete_params : (complete s).params = s.params := rfl
@[simp] theorem complete_busy : (complete s).busy = s.busy := rfl
@[simp] theorem complete_done : (complete s).done = s.done := rfl
@[simp] theorem complete_err : (complete s).err = s.err := rfl
@[simp] theorem complete_doneIe : (complete s).doneIe = s.doneIe := rfl
@[simp] theorem complete_errIe : (complete s).errIe = s.errIe := rfl
@[simp] theorem complete_clp : (complete s).clp = s.clp := rfl
@[simp] theorem complete_cp : (complete s).cp = s.cp + 32 := rfl
@[simp] theorem complete_errCode : (complete s).errCode = s.errCode := rfl
@[simp] theorem complete_cmdCount : (complete s).cmdCount = s.cmdCount + 1 := rfl
@[simp] theorem complete_inp : (complete s).inp = s.inp := rfl
@[simp] theorem complete_inEnd : (complete s).inEnd = s.inEnd := rfl
@[simp] theorem complete_outp : (complete s).outp = s.outp := rfl
@[simp] theorem complete_outEnd : (complete s).outEnd = s.outEnd := rfl
@[simp] theorem complete_lmem : (complete s).lmem = s.lmem := rfl
@[simp] theorem complete_inReset : (complete s).inReset = s.inReset := rfl
@[simp] theorem complete_held : (complete s).held = s.held := rfl
@[simp] theorem complete_inputs : (complete s).inputs = s.inputs := rfl
@[simp] theorem complete_replies : (complete s).replies = s.replies := rfl
@[simp] theorem complete_boundaries :
    (complete s).boundaries = ⟨s.cp + 32, s.cmdCount + 1, s.inp, s.outp⟩ :: s.boundaries := rfl
@[simp] theorem complete_lmemDraw : (complete s).lmemDraw = s.lmemDraw := rfl
@[simp] theorem complete_draws : (complete s).draws = s.draws := rfl

/-! ## completeHalt -/

@[simp] theorem completeHalt_params : (completeHalt s).params = s.params := rfl
@[simp] theorem completeHalt_busy : (completeHalt s).busy = false := rfl
@[simp] theorem completeHalt_done : (completeHalt s).done = true := rfl
@[simp] theorem completeHalt_err : (completeHalt s).err = s.err := rfl
@[simp] theorem completeHalt_doneIe : (completeHalt s).doneIe = s.doneIe := rfl
@[simp] theorem completeHalt_errIe : (completeHalt s).errIe = s.errIe := rfl
@[simp] theorem completeHalt_clp : (completeHalt s).clp = s.clp := rfl
@[simp] theorem completeHalt_cp : (completeHalt s).cp = s.cp + 32 := rfl
@[simp] theorem completeHalt_errCode : (completeHalt s).errCode = s.errCode := rfl
@[simp] theorem completeHalt_cmdCount : (completeHalt s).cmdCount = s.cmdCount + 1 := rfl
@[simp] theorem completeHalt_inp : (completeHalt s).inp = s.inp := rfl
@[simp] theorem completeHalt_inEnd : (completeHalt s).inEnd = s.inEnd := rfl
@[simp] theorem completeHalt_outp : (completeHalt s).outp = s.outp := rfl
@[simp] theorem completeHalt_outEnd : (completeHalt s).outEnd = s.outEnd := rfl
@[simp] theorem completeHalt_lmem : (completeHalt s).lmem = s.lmem := rfl
@[simp] theorem completeHalt_inReset : (completeHalt s).inReset = s.inReset := rfl
@[simp] theorem completeHalt_held : (completeHalt s).held = s.held := rfl
@[simp] theorem completeHalt_inputs : (completeHalt s).inputs = s.inputs := rfl
@[simp] theorem completeHalt_replies : (completeHalt s).replies = s.replies := rfl
@[simp] theorem completeHalt_boundaries : (completeHalt s).boundaries = [] := rfl
@[simp] theorem completeHalt_lmemDraw : (completeHalt s).lmemDraw = s.lmemDraw := rfl
@[simp] theorem completeHalt_draws : (completeHalt s).draws = s.draws := rfl

/-! ## errorHalt -/

@[simp] theorem errorHalt_params (e : ErrCode) : (errorHalt e s).params = s.params := rfl
@[simp] theorem errorHalt_busy (e : ErrCode) : (errorHalt e s).busy = false := rfl
@[simp] theorem errorHalt_done (e : ErrCode) : (errorHalt e s).done = s.done := rfl
@[simp] theorem errorHalt_err (e : ErrCode) : (errorHalt e s).err = true := rfl
@[simp] theorem errorHalt_doneIe (e : ErrCode) : (errorHalt e s).doneIe = s.doneIe := rfl
@[simp] theorem errorHalt_errIe (e : ErrCode) : (errorHalt e s).errIe = s.errIe := rfl
@[simp] theorem errorHalt_clp (e : ErrCode) : (errorHalt e s).clp = s.clp := rfl
@[simp] theorem errorHalt_cp (e : ErrCode) : (errorHalt e s).cp = s.cp := rfl
@[simp] theorem errorHalt_errCode (e : ErrCode) : (errorHalt e s).errCode = e := rfl
@[simp] theorem errorHalt_cmdCount (e : ErrCode) : (errorHalt e s).cmdCount = s.cmdCount := rfl
@[simp] theorem errorHalt_inp (e : ErrCode) : (errorHalt e s).inp = s.inp := rfl
@[simp] theorem errorHalt_inEnd (e : ErrCode) : (errorHalt e s).inEnd = s.inEnd := rfl
@[simp] theorem errorHalt_outp (e : ErrCode) : (errorHalt e s).outp = s.outp := rfl
@[simp] theorem errorHalt_outEnd (e : ErrCode) : (errorHalt e s).outEnd = s.outEnd := rfl
@[simp] theorem errorHalt_lmem (e : ErrCode) : (errorHalt e s).lmem = s.lmem := rfl
@[simp] theorem errorHalt_inReset (e : ErrCode) : (errorHalt e s).inReset = s.inReset := rfl
@[simp] theorem errorHalt_held (e : ErrCode) : (errorHalt e s).held = s.held := rfl
@[simp] theorem errorHalt_inputs (e : ErrCode) : (errorHalt e s).inputs = s.inputs := rfl
@[simp] theorem errorHalt_replies (e : ErrCode) : (errorHalt e s).replies = s.replies := rfl
@[simp] theorem errorHalt_boundaries (e : ErrCode) : (errorHalt e s).boundaries = [] := rfl
@[simp] theorem errorHalt_lmemDraw (e : ErrCode) : (errorHalt e s).lmemDraw = s.lmemDraw := rfl
@[simp] theorem errorHalt_draws (e : ErrCode) : (errorHalt e s).draws = s.draws := rfl

/-! ## startList -/

@[simp] theorem startList_params : (startList s).params = s.params := rfl
@[simp] theorem startList_busy : (startList s).busy = true := rfl
@[simp] theorem startList_done : (startList s).done = false := rfl
@[simp] theorem startList_err : (startList s).err = false := rfl
@[simp] theorem startList_doneIe : (startList s).doneIe = s.doneIe := rfl
@[simp] theorem startList_errIe : (startList s).errIe = s.errIe := rfl
@[simp] theorem startList_clp : (startList s).clp = s.clp := rfl
@[simp] theorem startList_cp : (startList s).cp = s.clp := rfl
@[simp] theorem startList_errCode : (startList s).errCode = .none := rfl
@[simp] theorem startList_cmdCount : (startList s).cmdCount = 0 := rfl
@[simp] theorem startList_inp : (startList s).inp = s.inp := rfl
@[simp] theorem startList_inEnd : (startList s).inEnd = s.inEnd := rfl
@[simp] theorem startList_outp : (startList s).outp = s.outp := rfl
@[simp] theorem startList_outEnd : (startList s).outEnd = s.outEnd := rfl
@[simp] theorem startList_lmem : (startList s).lmem = s.lmem := rfl
@[simp] theorem startList_inReset : (startList s).inReset = s.inReset := rfl
@[simp] theorem startList_held : (startList s).held = s.held := rfl
@[simp] theorem startList_inputs : (startList s).inputs = s.inputs := rfl
@[simp] theorem startList_replies : (startList s).replies = s.replies := rfl
@[simp] theorem startList_boundaries : (startList s).boundaries = [⟨s.clp, 0, s.inp, s.outp⟩] := rfl
@[simp] theorem startList_lmemDraw : (startList s).lmemDraw = s.lmemDraw := rfl
@[simp] theorem startList_draws : (startList s).draws = s.draws := rfl

/-! ## resetRegisters -/

@[simp] theorem resetRegisters_params : (resetRegisters s).params = s.params := rfl
@[simp] theorem resetRegisters_busy : (resetRegisters s).busy = false := rfl
@[simp] theorem resetRegisters_done : (resetRegisters s).done = false := rfl
@[simp] theorem resetRegisters_err : (resetRegisters s).err = false := rfl
@[simp] theorem resetRegisters_doneIe : (resetRegisters s).doneIe = false := rfl
@[simp] theorem resetRegisters_errIe : (resetRegisters s).errIe = false := rfl
@[simp] theorem resetRegisters_clp : (resetRegisters s).clp = 0 := rfl
@[simp] theorem resetRegisters_cp : (resetRegisters s).cp = 0 := rfl
@[simp] theorem resetRegisters_errCode : (resetRegisters s).errCode = .none := rfl
@[simp] theorem resetRegisters_cmdCount : (resetRegisters s).cmdCount = 0 := rfl
@[simp] theorem resetRegisters_inp : (resetRegisters s).inp = 0 := rfl
@[simp] theorem resetRegisters_inEnd : (resetRegisters s).inEnd = 0 := rfl
@[simp] theorem resetRegisters_outp : (resetRegisters s).outp = 0 := rfl
@[simp] theorem resetRegisters_outEnd : (resetRegisters s).outEnd = 0 := rfl
@[simp] theorem resetRegisters_lmem : (resetRegisters s).lmem = s.lmem := rfl
@[simp] theorem resetRegisters_inReset : (resetRegisters s).inReset = s.inReset := rfl
@[simp] theorem resetRegisters_held : (resetRegisters s).held = s.held := rfl
@[simp] theorem resetRegisters_inputs : (resetRegisters s).inputs = s.inputs := rfl
@[simp] theorem resetRegisters_replies : (resetRegisters s).replies = s.replies := rfl
@[simp] theorem resetRegisters_boundaries : (resetRegisters s).boundaries = [] := rfl
@[simp] theorem resetRegisters_lmemDraw : (resetRegisters s).lmemDraw = s.lmemDraw := rfl
@[simp] theorem resetRegisters_draws : (resetRegisters s).draws = s.draws := rfl

/-! ## hardReset -/

@[simp] theorem hardReset_params : (hardReset s).params = s.params := rfl
@[simp] theorem hardReset_busy : (hardReset s).busy = false := rfl
@[simp] theorem hardReset_done : (hardReset s).done = false := rfl
@[simp] theorem hardReset_err : (hardReset s).err = false := rfl
@[simp] theorem hardReset_doneIe : (hardReset s).doneIe = false := rfl
@[simp] theorem hardReset_errIe : (hardReset s).errIe = false := rfl
@[simp] theorem hardReset_clp : (hardReset s).clp = 0 := rfl
@[simp] theorem hardReset_cp : (hardReset s).cp = 0 := rfl
@[simp] theorem hardReset_errCode : (hardReset s).errCode = .none := rfl
@[simp] theorem hardReset_cmdCount : (hardReset s).cmdCount = 0 := rfl
@[simp] theorem hardReset_inp : (hardReset s).inp = 0 := rfl
@[simp] theorem hardReset_inEnd : (hardReset s).inEnd = 0 := rfl
@[simp] theorem hardReset_outp : (hardReset s).outp = 0 := rfl
@[simp] theorem hardReset_outEnd : (hardReset s).outEnd = 0 := rfl
@[simp] theorem hardReset_lmem : (hardReset s).lmem = [] := rfl
@[simp] theorem hardReset_inReset : (hardReset s).inReset = s.inReset := rfl
@[simp] theorem hardReset_held : (hardReset s).held = [] := rfl
@[simp] theorem hardReset_inputs : (hardReset s).inputs = s.inputs := rfl
@[simp] theorem hardReset_replies : (hardReset s).replies = s.replies := rfl
@[simp] theorem hardReset_boundaries : (hardReset s).boundaries = [] := rfl
@[simp] theorem hardReset_lmemDraw : (hardReset s).lmemDraw = s.draws := rfl
@[simp] theorem hardReset_draws : (hardReset s).draws = s.draws + 1 := rfl

/-! ## setInput -/

@[simp] theorem setInput_params (addr stop : Word) : (setInput addr stop s).params = s.params := rfl
@[simp] theorem setInput_busy (addr stop : Word) : (setInput addr stop s).busy = s.busy := rfl
@[simp] theorem setInput_done (addr stop : Word) : (setInput addr stop s).done = s.done := rfl
@[simp] theorem setInput_err (addr stop : Word) : (setInput addr stop s).err = s.err := rfl
@[simp] theorem setInput_doneIe (addr stop : Word) : (setInput addr stop s).doneIe = s.doneIe := rfl
@[simp] theorem setInput_errIe (addr stop : Word) : (setInput addr stop s).errIe = s.errIe := rfl
@[simp] theorem setInput_clp (addr stop : Word) : (setInput addr stop s).clp = s.clp := rfl
@[simp] theorem setInput_cp (addr stop : Word) : (setInput addr stop s).cp = s.cp := rfl
@[simp] theorem setInput_errCode (addr stop : Word) :
    (setInput addr stop s).errCode = s.errCode := rfl
@[simp] theorem setInput_cmdCount (addr stop : Word) :
    (setInput addr stop s).cmdCount = s.cmdCount := rfl
@[simp] theorem setInput_inp (addr stop : Word) : (setInput addr stop s).inp = addr := rfl
@[simp] theorem setInput_inEnd (addr stop : Word) : (setInput addr stop s).inEnd = stop := rfl
@[simp] theorem setInput_outp (addr stop : Word) : (setInput addr stop s).outp = s.outp := rfl
@[simp] theorem setInput_outEnd (addr stop : Word) : (setInput addr stop s).outEnd = s.outEnd := rfl
@[simp] theorem setInput_lmem (addr stop : Word) : (setInput addr stop s).lmem = s.lmem := rfl
@[simp] theorem setInput_inReset (addr stop : Word) :
    (setInput addr stop s).inReset = s.inReset := rfl
@[simp] theorem setInput_held (addr stop : Word) : (setInput addr stop s).held = s.held := rfl
@[simp] theorem setInput_inputs (addr stop : Word) : (setInput addr stop s).inputs = s.inputs := rfl
@[simp] theorem setInput_replies (addr stop : Word) :
    (setInput addr stop s).replies = s.replies := rfl
@[simp] theorem setInput_boundaries (addr stop : Word) :
    (setInput addr stop s).boundaries = s.boundaries := rfl
@[simp] theorem setInput_lmemDraw (addr stop : Word) :
    (setInput addr stop s).lmemDraw = s.lmemDraw := rfl
@[simp] theorem setInput_draws (addr stop : Word) : (setInput addr stop s).draws = s.draws := rfl

/-! ## setOutput -/

@[simp] theorem setOutput_params (addr stop : Word) :
    (setOutput addr stop s).params = s.params := rfl
@[simp] theorem setOutput_busy (addr stop : Word) : (setOutput addr stop s).busy = s.busy := rfl
@[simp] theorem setOutput_done (addr stop : Word) : (setOutput addr stop s).done = s.done := rfl
@[simp] theorem setOutput_err (addr stop : Word) : (setOutput addr stop s).err = s.err := rfl
@[simp] theorem setOutput_doneIe (addr stop : Word) :
    (setOutput addr stop s).doneIe = s.doneIe := rfl
@[simp] theorem setOutput_errIe (addr stop : Word) : (setOutput addr stop s).errIe = s.errIe := rfl
@[simp] theorem setOutput_clp (addr stop : Word) : (setOutput addr stop s).clp = s.clp := rfl
@[simp] theorem setOutput_cp (addr stop : Word) : (setOutput addr stop s).cp = s.cp := rfl
@[simp] theorem setOutput_errCode (addr stop : Word) :
    (setOutput addr stop s).errCode = s.errCode := rfl
@[simp] theorem setOutput_cmdCount (addr stop : Word) :
    (setOutput addr stop s).cmdCount = s.cmdCount := rfl
@[simp] theorem setOutput_inp (addr stop : Word) : (setOutput addr stop s).inp = s.inp := rfl
@[simp] theorem setOutput_inEnd (addr stop : Word) : (setOutput addr stop s).inEnd = s.inEnd := rfl
@[simp] theorem setOutput_outp (addr stop : Word) : (setOutput addr stop s).outp = addr := rfl
@[simp] theorem setOutput_outEnd (addr stop : Word) : (setOutput addr stop s).outEnd = stop := rfl
@[simp] theorem setOutput_lmem (addr stop : Word) : (setOutput addr stop s).lmem = s.lmem := rfl
@[simp] theorem setOutput_inReset (addr stop : Word) :
    (setOutput addr stop s).inReset = s.inReset := rfl
@[simp] theorem setOutput_held (addr stop : Word) : (setOutput addr stop s).held = s.held := rfl
@[simp] theorem setOutput_inputs (addr stop : Word) :
    (setOutput addr stop s).inputs = s.inputs := rfl
@[simp] theorem setOutput_replies (addr stop : Word) :
    (setOutput addr stop s).replies = s.replies := rfl
@[simp] theorem setOutput_boundaries (addr stop : Word) :
    (setOutput addr stop s).boundaries = s.boundaries := rfl
@[simp] theorem setOutput_lmemDraw (addr stop : Word) :
    (setOutput addr stop s).lmemDraw = s.lmemDraw := rfl
@[simp] theorem setOutput_draws (addr stop : Word) : (setOutput addr stop s).draws = s.draws := rfl

/-! ## advanceInput -/

@[simp] theorem advanceInput_params (n : Nat) : (advanceInput n s).params = s.params := rfl
@[simp] theorem advanceInput_busy (n : Nat) : (advanceInput n s).busy = s.busy := rfl
@[simp] theorem advanceInput_done (n : Nat) : (advanceInput n s).done = s.done := rfl
@[simp] theorem advanceInput_err (n : Nat) : (advanceInput n s).err = s.err := rfl
@[simp] theorem advanceInput_doneIe (n : Nat) : (advanceInput n s).doneIe = s.doneIe := rfl
@[simp] theorem advanceInput_errIe (n : Nat) : (advanceInput n s).errIe = s.errIe := rfl
@[simp] theorem advanceInput_clp (n : Nat) : (advanceInput n s).clp = s.clp := rfl
@[simp] theorem advanceInput_cp (n : Nat) : (advanceInput n s).cp = s.cp := rfl
@[simp] theorem advanceInput_errCode (n : Nat) : (advanceInput n s).errCode = s.errCode := rfl
@[simp] theorem advanceInput_cmdCount (n : Nat) : (advanceInput n s).cmdCount = s.cmdCount := rfl
@[simp] theorem advanceInput_inp (n : Nat) : (advanceInput n s).inp = cursorPlus s.inp n := rfl
@[simp] theorem advanceInput_inEnd (n : Nat) : (advanceInput n s).inEnd = s.inEnd := rfl
@[simp] theorem advanceInput_outp (n : Nat) : (advanceInput n s).outp = s.outp := rfl
@[simp] theorem advanceInput_outEnd (n : Nat) : (advanceInput n s).outEnd = s.outEnd := rfl
@[simp] theorem advanceInput_lmem (n : Nat) : (advanceInput n s).lmem = s.lmem := rfl
@[simp] theorem advanceInput_inReset (n : Nat) : (advanceInput n s).inReset = s.inReset := rfl
@[simp] theorem advanceInput_held (n : Nat) : (advanceInput n s).held = s.held := rfl
@[simp] theorem advanceInput_inputs (n : Nat) : (advanceInput n s).inputs = s.inputs := rfl
@[simp] theorem advanceInput_replies (n : Nat) : (advanceInput n s).replies = s.replies := rfl
@[simp] theorem advanceInput_boundaries (n : Nat) :
    (advanceInput n s).boundaries = s.boundaries := rfl
@[simp] theorem advanceInput_lmemDraw (n : Nat) : (advanceInput n s).lmemDraw = s.lmemDraw := rfl
@[simp] theorem advanceInput_draws (n : Nat) : (advanceInput n s).draws = s.draws := rfl

/-! ## advanceOutput -/

@[simp] theorem advanceOutput_params (n : Nat) : (advanceOutput n s).params = s.params := rfl
@[simp] theorem advanceOutput_busy (n : Nat) : (advanceOutput n s).busy = s.busy := rfl
@[simp] theorem advanceOutput_done (n : Nat) : (advanceOutput n s).done = s.done := rfl
@[simp] theorem advanceOutput_err (n : Nat) : (advanceOutput n s).err = s.err := rfl
@[simp] theorem advanceOutput_doneIe (n : Nat) : (advanceOutput n s).doneIe = s.doneIe := rfl
@[simp] theorem advanceOutput_errIe (n : Nat) : (advanceOutput n s).errIe = s.errIe := rfl
@[simp] theorem advanceOutput_clp (n : Nat) : (advanceOutput n s).clp = s.clp := rfl
@[simp] theorem advanceOutput_cp (n : Nat) : (advanceOutput n s).cp = s.cp := rfl
@[simp] theorem advanceOutput_errCode (n : Nat) : (advanceOutput n s).errCode = s.errCode := rfl
@[simp] theorem advanceOutput_cmdCount (n : Nat) : (advanceOutput n s).cmdCount = s.cmdCount := rfl
@[simp] theorem advanceOutput_inp (n : Nat) : (advanceOutput n s).inp = s.inp := rfl
@[simp] theorem advanceOutput_inEnd (n : Nat) : (advanceOutput n s).inEnd = s.inEnd := rfl
@[simp] theorem advanceOutput_outp (n : Nat) : (advanceOutput n s).outp = cursorPlus s.outp n := rfl
@[simp] theorem advanceOutput_outEnd (n : Nat) : (advanceOutput n s).outEnd = s.outEnd := rfl
@[simp] theorem advanceOutput_lmem (n : Nat) : (advanceOutput n s).lmem = s.lmem := rfl
@[simp] theorem advanceOutput_inReset (n : Nat) : (advanceOutput n s).inReset = s.inReset := rfl
@[simp] theorem advanceOutput_held (n : Nat) : (advanceOutput n s).held = s.held := rfl
@[simp] theorem advanceOutput_inputs (n : Nat) : (advanceOutput n s).inputs = s.inputs := rfl
@[simp] theorem advanceOutput_replies (n : Nat) : (advanceOutput n s).replies = s.replies := rfl
@[simp] theorem advanceOutput_boundaries (n : Nat) :
    (advanceOutput n s).boundaries = s.boundaries := rfl
@[simp] theorem advanceOutput_lmemDraw (n : Nat) : (advanceOutput n s).lmemDraw = s.lmemDraw := rfl
@[simp] theorem advanceOutput_draws (n : Nat) : (advanceOutput n s).draws = s.draws := rfl

/-! ## writeStatus -/

@[simp] theorem writeStatus_params (v : Word) : (writeStatus v s).params = s.params := rfl
@[simp] theorem writeStatus_busy (v : Word) : (writeStatus v s).busy = s.busy := rfl
@[simp] theorem writeStatus_done (v : Word) :
    (writeStatus v s).done = (s.done && !v.getLsbD 1) := rfl
@[simp] theorem writeStatus_err (v : Word) : (writeStatus v s).err = (s.err && !v.getLsbD 2) := rfl
@[simp] theorem writeStatus_doneIe (v : Word) : (writeStatus v s).doneIe = s.doneIe := rfl
@[simp] theorem writeStatus_errIe (v : Word) : (writeStatus v s).errIe = s.errIe := rfl
@[simp] theorem writeStatus_clp (v : Word) : (writeStatus v s).clp = s.clp := rfl
@[simp] theorem writeStatus_cp (v : Word) : (writeStatus v s).cp = s.cp := rfl
@[simp] theorem writeStatus_errCode (v : Word) : (writeStatus v s).errCode = s.errCode := rfl
@[simp] theorem writeStatus_cmdCount (v : Word) : (writeStatus v s).cmdCount = s.cmdCount := rfl
@[simp] theorem writeStatus_inp (v : Word) : (writeStatus v s).inp = s.inp := rfl
@[simp] theorem writeStatus_inEnd (v : Word) : (writeStatus v s).inEnd = s.inEnd := rfl
@[simp] theorem writeStatus_outp (v : Word) : (writeStatus v s).outp = s.outp := rfl
@[simp] theorem writeStatus_outEnd (v : Word) : (writeStatus v s).outEnd = s.outEnd := rfl
@[simp] theorem writeStatus_lmem (v : Word) : (writeStatus v s).lmem = s.lmem := rfl
@[simp] theorem writeStatus_inReset (v : Word) : (writeStatus v s).inReset = s.inReset := rfl
@[simp] theorem writeStatus_held (v : Word) : (writeStatus v s).held = s.held := rfl
@[simp] theorem writeStatus_inputs (v : Word) : (writeStatus v s).inputs = s.inputs := rfl
@[simp] theorem writeStatus_replies (v : Word) : (writeStatus v s).replies = s.replies := rfl
@[simp] theorem writeStatus_boundaries (v : Word) :
    (writeStatus v s).boundaries = s.boundaries := rfl
@[simp] theorem writeStatus_lmemDraw (v : Word) : (writeStatus v s).lmemDraw = s.lmemDraw := rfl
@[simp] theorem writeStatus_draws (v : Word) : (writeStatus v s).draws = s.draws := rfl

/-! ## writeIrqEn -/

@[simp] theorem writeIrqEn_params (v : Word) : (writeIrqEn v s).params = s.params := rfl
@[simp] theorem writeIrqEn_busy (v : Word) : (writeIrqEn v s).busy = s.busy := rfl
@[simp] theorem writeIrqEn_done (v : Word) : (writeIrqEn v s).done = s.done := rfl
@[simp] theorem writeIrqEn_err (v : Word) : (writeIrqEn v s).err = s.err := rfl
@[simp] theorem writeIrqEn_doneIe (v : Word) : (writeIrqEn v s).doneIe = v.getLsbD 1 := rfl
@[simp] theorem writeIrqEn_errIe (v : Word) : (writeIrqEn v s).errIe = v.getLsbD 2 := rfl
@[simp] theorem writeIrqEn_clp (v : Word) : (writeIrqEn v s).clp = s.clp := rfl
@[simp] theorem writeIrqEn_cp (v : Word) : (writeIrqEn v s).cp = s.cp := rfl
@[simp] theorem writeIrqEn_errCode (v : Word) : (writeIrqEn v s).errCode = s.errCode := rfl
@[simp] theorem writeIrqEn_cmdCount (v : Word) : (writeIrqEn v s).cmdCount = s.cmdCount := rfl
@[simp] theorem writeIrqEn_inp (v : Word) : (writeIrqEn v s).inp = s.inp := rfl
@[simp] theorem writeIrqEn_inEnd (v : Word) : (writeIrqEn v s).inEnd = s.inEnd := rfl
@[simp] theorem writeIrqEn_outp (v : Word) : (writeIrqEn v s).outp = s.outp := rfl
@[simp] theorem writeIrqEn_outEnd (v : Word) : (writeIrqEn v s).outEnd = s.outEnd := rfl
@[simp] theorem writeIrqEn_lmem (v : Word) : (writeIrqEn v s).lmem = s.lmem := rfl
@[simp] theorem writeIrqEn_inReset (v : Word) : (writeIrqEn v s).inReset = s.inReset := rfl
@[simp] theorem writeIrqEn_held (v : Word) : (writeIrqEn v s).held = s.held := rfl
@[simp] theorem writeIrqEn_inputs (v : Word) : (writeIrqEn v s).inputs = s.inputs := rfl
@[simp] theorem writeIrqEn_replies (v : Word) : (writeIrqEn v s).replies = s.replies := rfl
@[simp] theorem writeIrqEn_boundaries (v : Word) : (writeIrqEn v s).boundaries = s.boundaries := rfl
@[simp] theorem writeIrqEn_lmemDraw (v : Word) : (writeIrqEn v s).lmemDraw = s.lmemDraw := rfl
@[simp] theorem writeIrqEn_draws (v : Word) : (writeIrqEn v s).draws = s.draws := rfl

/-! ## reply -/

@[simp] theorem reply_params (r : Reply) : (reply r s).params = s.params := rfl
@[simp] theorem reply_busy (r : Reply) : (reply r s).busy = s.busy := rfl
@[simp] theorem reply_done (r : Reply) : (reply r s).done = s.done := rfl
@[simp] theorem reply_err (r : Reply) : (reply r s).err = s.err := rfl
@[simp] theorem reply_doneIe (r : Reply) : (reply r s).doneIe = s.doneIe := rfl
@[simp] theorem reply_errIe (r : Reply) : (reply r s).errIe = s.errIe := rfl
@[simp] theorem reply_clp (r : Reply) : (reply r s).clp = s.clp := rfl
@[simp] theorem reply_cp (r : Reply) : (reply r s).cp = s.cp := rfl
@[simp] theorem reply_errCode (r : Reply) : (reply r s).errCode = s.errCode := rfl
@[simp] theorem reply_cmdCount (r : Reply) : (reply r s).cmdCount = s.cmdCount := rfl
@[simp] theorem reply_inp (r : Reply) : (reply r s).inp = s.inp := rfl
@[simp] theorem reply_inEnd (r : Reply) : (reply r s).inEnd = s.inEnd := rfl
@[simp] theorem reply_outp (r : Reply) : (reply r s).outp = s.outp := rfl
@[simp] theorem reply_outEnd (r : Reply) : (reply r s).outEnd = s.outEnd := rfl
@[simp] theorem reply_lmem (r : Reply) : (reply r s).lmem = s.lmem := rfl
@[simp] theorem reply_inReset (r : Reply) : (reply r s).inReset = s.inReset := rfl
@[simp] theorem reply_held (r : Reply) : (reply r s).held = s.held := rfl
@[simp] theorem reply_inputs (r : Reply) : (reply r s).inputs = s.inputs := rfl
@[simp] theorem reply_replies (r : Reply) : (reply r s).replies = r :: s.replies := rfl
@[simp] theorem reply_boundaries (r : Reply) : (reply r s).boundaries = s.boundaries := rfl
@[simp] theorem reply_lmemDraw (r : Reply) : (reply r s).lmemDraw = s.lmemDraw := rfl
@[simp] theorem reply_draws (r : Reply) : (reply r s).draws = s.draws := rfl

end Sys2Proof.Machine
end

