-- ==== Sys2Proof/Laws/Memory.lean ====
section
/-! SUPPORT. What LMEM reads as after a write, and that writes keep its canonical form. -/

namespace Sys2Proof.Machine

/-! ## Lookup -/

@[simp] theorem lookup_nil (a : Nat) : Memory.lookup [] a = none := rfl

theorem lookup_cons (cell : Host.Cell) (m : Memory) (a : Nat) :
    Memory.lookup (cell :: m) a = if cell.1 = a then some cell.2 else Memory.lookup m a := rfl

theorem lookup_append (m q : Memory) (a : Nat) :
    Memory.lookup (m ++ q) a = (Memory.lookup m a).or (Memory.lookup q a) := by
  induction m with
  | nil => simp
  | cons cell rest ih =>
    simp only [List.cons_append, lookup_cons, ih]
    split <;> simp

theorem lookup_filter_of_true (m : Memory) (p : Nat → Bool) (a : Nat) (h : p a = true) :
    Memory.lookup (m.filter fun cell => p cell.1) a = Memory.lookup m a := by
  induction m with
  | nil => rfl
  | cons cell rest ih =>
    by_cases hc : p cell.1 = true
    · simp [hc, lookup_cons, ih]
    · have hne : cell.1 ≠ a := fun e => hc (e ▸ h)
      simp [hc, lookup_cons, ih, hne]

theorem lookup_filter_of_false (m : Memory) (p : Nat → Bool) (a : Nat) (h : p a = false) :
    Memory.lookup (m.filter fun cell => p cell.1) a = none := by
  induction m with
  | nil => rfl
  | cons cell rest ih =>
    by_cases hc : p cell.1 = true
    · have hne : cell.1 ≠ a := fun e => by rw [e, h] at hc; cases hc
      simp [hc, lookup_cons, ih, hne]
    · simp [hc, ih]

theorem lookup_cellsFrom (base : Nat) (bs : List Byte) (a : Nat) :
    Memory.lookup (cellsFrom base bs) a = if base ≤ a then bs[a - base]? else none := by
  induction bs generalizing base with
  | nil => simp [cellsFrom]
  | cons b rest ih =>
    simp only [cellsFrom, lookup_cons, ih]
    by_cases h : base = a
    · simp [h]
    · by_cases hlt : base + 1 ≤ a
      · have h1 : a - base = (a - (base + 1)) + 1 := by omega
        have h2 : base ≤ a := by omega
        simp [h, hlt, h2, h1]
      · have h2 : ¬ base ≤ a := by omega
        simp [h, hlt, h2]

/-- Reading a byte after a write: the written byte inside, the old one outside. -/
theorem lookup_write (m : Memory) (base : Nat) (bs : List Byte) (a : Nat) :
    (m.write base bs).lookup a =
      if base ≤ a ∧ a < base + bs.length then bs[a - base]? else m.lookup a := by
  unfold Memory.write
  rw [lookup_append, lookup_append, lookup_cellsFrom]
  by_cases h1 : a < base
  · rw [lookup_filter_of_true m (fun k => decide (k < base)) a (by simpa using h1),
      lookup_filter_of_false m (fun k => decide (base + bs.length ≤ k)) a
        (by simp only [decide_eq_false_iff_not]; omega)]
    have h2 : ¬ base ≤ a := by omega
    simp [h2]
  · rw [lookup_filter_of_false m (fun k => decide (k < base)) a (by simpa using h1)]
    have h2 : base ≤ a := by omega
    by_cases h3 : a < base + bs.length
    · rw [lookup_filter_of_false m (fun k => decide (base + bs.length ≤ k)) a
        (by simp only [decide_eq_false_iff_not]; omega)]
      simp [h2, h3]
    · rw [lookup_filter_of_true m (fun k => decide (base + bs.length ≤ k)) a
        (by simp only [decide_eq_true_eq]; omega)]
      have h4 : bs[a - base]? = none := by simp; omega
      simp [h2, h3, h4]

/-! ## The canonical form -/

theorem wf_iff (m : Memory) : m.wf = true ↔ (m.map Prod.fst).Pairwise (· < ·) := by
  simp [Memory.wf]

theorem map_fst_cellsFrom (base : Nat) (bs : List Byte) :
    (cellsFrom base bs).map Prod.fst = List.range' base bs.length := by
  induction bs generalizing base with
  | nil => rfl
  | cons b rest ih => simp [cellsFrom, ih, List.range'_succ]

/-- A listed cell after a write is an old one outside the written addresses or a written one. -/
theorem mem_write {m : Memory} {base : Nat} {bs : List Byte} {cell : Host.Cell}
    (h : cell ∈ m.write base bs) :
    cell ∈ m ∨ (base ≤ cell.1 ∧ cell.1 < base + bs.length) := by
  simp only [Memory.write, List.mem_append, List.mem_filter] at h
  rcases h with (h | h) | h
  · exact .inl h.1
  · right
    have : cell.1 ∈ (cellsFrom base bs).map Prod.fst := List.mem_map_of_mem h
    rw [map_fst_cellsFrom] at this
    simpa [List.mem_range'_1] using this
  · exact .inl h.1

/-- A write keeps the canonical form of LMEM. -/
theorem wf_write {m : Memory} (h : m.wf = true) (base : Nat) (bs : List Byte) :
    (m.write base bs).wf = true := by
  rw [wf_iff] at h ⊢
  simp only [Memory.write, List.map_append, List.pairwise_append]
  have hf : ∀ p : Host.Cell → Bool, ((m.filter p).map Prod.fst).Pairwise (· < ·) := fun p =>
    h.sublist ((List.filter_sublist).map Prod.fst)
  refine ⟨⟨hf _, ?_, ?_⟩, hf _, ?_⟩
  · rw [map_fst_cellsFrom]
    exact List.pairwise_lt_range'
  · intro x hx y hy
    rw [map_fst_cellsFrom, List.mem_range'_1] at hy
    simp only [List.mem_map, List.mem_filter, decide_eq_true_eq] at hx
    obtain ⟨c, ⟨_, hc⟩, rfl⟩ := hx
    omega
  · intro x hx y hy
    simp only [List.mem_append, List.mem_map, List.mem_filter, decide_eq_true_eq] at hx hy
    obtain ⟨d, ⟨_, hd⟩, rfl⟩ := hy
    rcases hx with ⟨c, ⟨_, hc⟩, rfl⟩ | hx
    · omega
    · have : x ∈ (cellsFrom base bs).map Prod.fst := by simpa using hx
      rw [map_fst_cellsFrom, List.mem_range'_1] at this
      omega

theorem wf_nil : Memory.wf [] = true := rfl

/-! ## Bytes of a state -/

/-- Only LMEM and its draw decide what a byte reads as. -/
theorem readByte_congr {s t : State} (hm : t.lmem = s.lmem) (hd : t.lmemDraw = s.lmemDraw) (a : Nat) :
    readByte t a = readByte s a := by
  simp [readByte, hm, hd]

theorem readByte_writeBytes_outside (s : State) (base : Nat) (bs : List Byte) (a : Nat)
    (h : a < base ∨ base + bs.length ≤ a) : readByte (writeBytes s base bs) a = readByte s a := by
  have : ¬ (base ≤ a ∧ a < base + bs.length) := by omega
  simp [readByte, lookup_write, this]

theorem readByte_writeBytes_inside (s : State) (base : Nat) (bs : List Byte) (i : Nat)
    (h : i < bs.length) : readByte (writeBytes s base bs) (base + i) = bs[i] := by
  simp [readByte, lookup_write, h]

theorem length_readBytes (s : State) (a n : Nat) : (readBytes s a n).length = n := by
  simp [readBytes]

theorem getElem_readBytes (s : State) (a n i : Nat) (h : i < (readBytes s a n).length) :
    (readBytes s a n)[i] = readByte s (a + i) := by
  simp [readBytes]

theorem readBytes_congr {s t : State} {a n : Nat}
    (h : ∀ k, a ≤ k → k < a + n → readByte t k = readByte s k) :
    readBytes t a n = readBytes s a n := by
  simp only [readBytes]
  apply List.map_congr_left
  intro k hk
  rw [List.mem_range'_1] at hk
  exact h k hk.1 hk.2

theorem readU32_congr {s t : State} {a : Nat}
    (h : ∀ k, a ≤ k → k < a + 4 → readByte t k = readByte s k) : readU32 t a = readU32 s a := by
  simp [readU32, h a (by omega) (by omega), h (a + 1) (by omega) (by omega),
    h (a + 2) (by omega) (by omega), h (a + 3) (by omega) (by omega)]

theorem readF64_congr {s t : State} {a : Nat}
    (h : ∀ k, a ≤ k → k < a + 8 → readByte t k = readByte s k) : readF64 t a = readF64 s a := by
  have h1 : readU32 t a = readU32 s a := readU32_congr fun k h1 h2 => h k h1 (by omega)
  have h2 : readU32 t (a + 4) = readU32 s (a + 4) :=
    readU32_congr fun k h1 h2 => h k (by omega) (by omega)
  simp [readF64, h1, h2]

/-- The bytes just written read back as written. -/
theorem readBytes_writeBytes (s : State) (base : Nat) (bs : List Byte) :
    readBytes (writeBytes s base bs) base bs.length = bs := by
  apply List.ext_getElem
  · simp [readBytes]
  · intro i h1 h2
    rw [getElem_readBytes, readByte_writeBytes_inside s base bs i h2]

/-! ## Words and binary64 data as bytes -/

theorem length_wordBytes (w : Word) : (wordBytes w).length = 4 := rfl

theorem length_f64Bytes (x : F64) : (f64Bytes x).length = 8 := rfl

/-- The bytes of a word make the word again (20_memory.md R200). -/
theorem wordOfBytes_wordBytes (w : Word) :
    wordOfBytes (w.extractLsb' 0 8) (w.extractLsb' 8 8) (w.extractLsb' 16 8)
      (w.extractLsb' 24 8) = w := by
  unfold wordOfBytes
  ext i hi
  simp only [BitVec.getElem_append, BitVec.getElem_extractLsb']
  split
  · simp [BitVec.getLsbD_eq_getElem (by omega : i < 32)]
  · split
    · have : 8 + (i - 8) = i := by omega
      simp [this, BitVec.getLsbD_eq_getElem (by omega : i < 32)]
    · split
      · have : 16 + (i - 8 - 8) = i := by omega
        simp [this, BitVec.getLsbD_eq_getElem (by omega : i < 32)]
      · have : 24 + (i - 8 - 8 - 8) = i := by omega
        simp [this, BitVec.getLsbD_eq_getElem (by omega : i < 32)]

theorem f64OfWords_extract (x : F64) :
    f64OfWords (x.extractLsb' 0 32) (x.extractLsb' 32 32) = x := by
  unfold f64OfWords
  ext i hi
  simp only [BitVec.getElem_append, BitVec.getElem_extractLsb']
  split
  · simp [BitVec.getLsbD_eq_getElem (by omega : i < 64)]
  · have : 32 + (i - 32) = i := by omega
    simp [this, BitVec.getLsbD_eq_getElem (by omega : i < 64)]

/-- Eight bytes that are the bytes of a datum read as it. -/
theorem readF64_of_bytes {s : State} {a : Nat} {x : F64}
    (h : ∀ k (hk : k < (f64Bytes x).length), readByte s (a + k) = (f64Bytes x)[k]) :
    readF64 s a = x := by
  have e0 := h 0 (by simp [length_f64Bytes])
  have e1 := h 1 (by simp [length_f64Bytes])
  have e2 := h 2 (by simp [length_f64Bytes])
  have e3 := h 3 (by simp [length_f64Bytes])
  have e4 := h 4 (by simp [length_f64Bytes])
  have e5 := h 5 (by simp [length_f64Bytes])
  have e6 := h 6 (by simp [length_f64Bytes])
  have e7 := h 7 (by simp [length_f64Bytes])
  simp only [f64Bytes, wordBytes, List.cons_append, List.nil_append, List.getElem_cons_zero,
    List.getElem_cons_succ, Nat.add_zero] at e0 e1 e2 e3 e4 e5 e6 e7
  have w0 : readU32 s a = x.extractLsb' 0 32 := by
    simp only [readU32, e0, e1, e2, e3]
    exact wordOfBytes_wordBytes _
  have w1 : readU32 s (a + 4) = x.extractLsb' 32 32 := by
    simp only [readU32, Nat.add_assoc, Nat.reduceAdd, e4, e5, e6, e7]
    exact wordOfBytes_wordBytes _
  simp [readF64, w0, w1, f64OfWords_extract]

theorem length_flatMap_f64Bytes (xs : List F64) : (xs.flatMap f64Bytes).length = 8 * xs.length := by
  induction xs with
  | nil => rfl
  | cons x rest ih => simp only [List.flatMap_cons, List.length_append, length_f64Bytes, ih,
      List.length_cons]; omega

theorem getElem_flatMap_f64Bytes (xs : List F64) (i k : Nat) (hi : i < xs.length) (hk : k < 8)
    (h : 8 * i + k < (xs.flatMap f64Bytes).length) :
    (xs.flatMap f64Bytes)[8 * i + k] =
      (f64Bytes xs[i])[k]'(by simpa [length_f64Bytes] using hk) := by
  induction xs generalizing i with
  | nil => simp at hi
  | cons x rest ih =>
    cases i with
    | zero =>
      simp only [List.flatMap_cons]
      rw [List.getElem_append_left (by simpa [length_f64Bytes] using hk)]
      simp
    | succ i =>
      simp only [List.flatMap_cons]
      rw [List.getElem_append_right (by simp only [length_f64Bytes]; omega)]
      have e : 8 * (i + 1) + k - (f64Bytes x).length = 8 * i + k := by
        simp only [length_f64Bytes]; omega
      simp only [e]
      rw [ih i (by simpa using hi)]
      simp

/-- Element i of a stored sequence of binary64 data reads back as written. -/
theorem readF64_writeF64s (s : State) (base : Nat) (xs : List F64) (i : Nat) (hi : i < xs.length) :
    readF64 (writeF64s s base xs) (base + 8 * i) = xs[i] := by
  apply readF64_of_bytes
  intro k hk
  have hk' : k < 8 := by simpa [length_f64Bytes] using hk
  have hlen : 8 * i + k < (xs.flatMap f64Bytes).length := by
    rw [length_flatMap_f64Bytes]; omega
  rw [Nat.add_assoc, writeF64s, readByte_writeBytes_inside s base _ _ hlen,
    getElem_flatMap_f64Bytes xs i k hi hk' hlen]

theorem readByte_writeF64s_outside (s : State) (base : Nat) (xs : List F64) (a : Nat)
    (h : a < base ∨ base + 8 * xs.length ≤ a) : readByte (writeF64s s base xs) a = readByte s a := by
  apply readByte_writeBytes_outside
  rw [length_flatMap_f64Bytes]
  exact h

end Sys2Proof.Machine
end

