-- ==== Sys2Proof/Laws/Numeric.lean ====
section
/-! SUPPORT. Row-by-row lists, lists of optional values, padding, and the zigzag table. -/

namespace Sys2Proof.Machine

/-! ## grid -/

theorem length_grid {α : Type} (rows cols : Nat) (f : Nat → Nat → α) :
    (grid rows cols f).length = rows * cols := by
  simp [grid, List.length_flatMap]

/-- The list of rows from row k on. -/
theorem grid_rows {α : Type} (k rows cols : Nat) (f : Nat → Nat → α) (r c : Nat) (hr : r < rows)
    (hc : c < cols) :
    ((List.range' k rows).flatMap fun r => (List.range' 0 cols).map fun c => f r c)[r * cols + c]? =
      some (f (k + r) c) := by
  induction rows generalizing k r with
  | zero => omega
  | succ rows ih =>
    rw [List.range'_succ, List.flatMap_cons]
    cases r with
    | zero =>
      rw [List.getElem?_append_left (by simp; omega)]
      simp [hc]
    | succ r =>
      have e : (r + 1) * cols + c = cols + (r * cols + c) := by ring
      rw [List.getElem?_append_right (by simp; omega)]
      have e2 : (r + 1) * cols + c - ((List.range' 0 cols).map fun c => f k c).length
          = r * cols + c := by simp; omega
      rw [e2, ih (k + 1) r (by omega)]
      congr 2
      omega

theorem getElem?_grid {α : Type} (rows cols : Nat) (f : Nat → Nat → α) (r c : Nat) (hr : r < rows)
    (hc : c < cols) : (grid rows cols f)[r * cols + c]? = some (f r c) := by
  have := grid_rows 0 rows cols f r c hr hc
  simpa [grid] using this

theorem grid_index_lt {rows cols r c : Nat} (hr : r < rows) (hc : c < cols) :
    r * cols + c < rows * cols := by
  have : (r + 1) * cols ≤ rows * cols := Nat.mul_le_mul_right _ hr
  have e : (r + 1) * cols = r * cols + cols := by ring
  omega

theorem getElem_grid {α : Type} (rows cols : Nat) (f : Nat → Nat → α) (r c : Nat) (hr : r < rows)
    (hc : c < cols) (h : r * cols + c < (grid rows cols f).length) :
    (grid rows cols f)[r * cols + c] = f r c := by
  have := getElem?_grid rows cols f r c hr hc
  rw [List.getElem?_eq_getElem h] at this
  exact Option.some.inj this

theorem getD_grid {α : Type} (rows cols : Nat) (f : Nat → Nat → α) (d : α) (r c : Nat)
    (hr : r < rows) (hc : c < cols) : (grid rows cols f).getD (r * cols + c) d = f r c := by
  simp [List.getD, getElem?_grid rows cols f r c hr hc]

theorem mem_grid {α : Type} {rows cols : Nat} {f : Nat → Nat → α} {x : α} :
    x ∈ grid rows cols f ↔ ∃ r < rows, ∃ c < cols, f r c = x := by
  simp [grid, List.mem_flatMap, List.mem_range'_1]

theorem grid_congr {α : Type} {rows cols : Nat} {f g : Nat → Nat → α}
    (h : ∀ r < rows, ∀ c < cols, f r c = g r c) : grid rows cols f = grid rows cols g := by
  unfold grid
  apply List.flatMap_congr
  intro r hr
  apply List.map_congr_left
  intro c hc
  rw [List.mem_range'_1] at hr hc
  exact h r (by omega) c (by omega)

/-! ## allSome -/

theorem allSome_eq_some {α : Type} {l : List (Option α)} {xs : List α} :
    allSome l = some xs ↔ l = xs.map some := by
  induction l generalizing xs with
  | nil => cases xs <;> simp [allSome]
  | cons o rest ih =>
    cases o with
    | none => cases xs <;> simp [allSome]
    | some x =>
      cases xs with
      | nil => simp only [allSome]; split <;> simp
      | cons y ys =>
        simp only [allSome, List.map_cons, List.cons.injEq, Option.some.injEq]
        cases h : allSome rest with
        | none =>
          have : rest ≠ ys.map some := fun e => by rw [ih.mpr e] at h; cases h
          simp [this]
        | some zs =>
          have hz := ih.mp h
          simp only [Option.some.injEq, List.cons.injEq]
          constructor
          · rintro ⟨rfl, rfl⟩; exact ⟨rfl, hz⟩
          · rintro ⟨rfl, e⟩
            refine ⟨rfl, ?_⟩
            rw [hz] at e
            exact List.map_injective_iff.mpr (Option.some_injective _) e

theorem allSome_eq_none {α : Type} {l : List (Option α)} : allSome l = none ↔ none ∈ l := by
  induction l with
  | nil => simp [allSome]
  | cons o rest ih =>
    cases o with
    | none => simp [allSome]
    | some x =>
      simp only [allSome, List.mem_cons, reduceCtorEq, false_or]
      rw [← ih]
      cases allSome rest <;> simp

theorem length_of_allSome {α : Type} {l : List (Option α)} {xs : List α} (h : allSome l = some xs) :
    xs.length = l.length := by
  rw [allSome_eq_some.mp h]; simp

theorem getElem_of_allSome {α : Type} {l : List (Option α)} {xs : List α} (h : allSome l = some xs)
    (i : Nat) (hi : i < xs.length) :
    l[i]'(by rw [← length_of_allSome h]; exact hi) = some xs[i] := by
  have := allSome_eq_some.mp h
  subst this
  simp

/-! ## Padding -/

/-- pad8 is the least multiple of 8 that is not below. -/
theorem pad8_spec (n : Nat) : pad8 n % 8 = 0 ∧ n ≤ pad8 n ∧ pad8 n < n + 8 := by
  unfold pad8 ceilDiv
  omega

theorem pad8_div (n : Nat) : pad8 n / 8 = ceilDiv n 8 := by
  unfold pad8; omega

theorem ceilDiv_two (n : Nat) : ceilDiv n 2 = (n + 1) / 2 := rfl

theorem ceilDiv_pos {n k : Nat} (hn : 0 < n) (hk : 0 < k) : 0 < ceilDiv n k := by
  unfold ceilDiv
  exact Nat.div_pos (by omega) hk

/-! ## The zigzag table is a permutation of 0..63 (45_zigzag.md R900) -/

theorem zzTable_length : zzTable.length = 64 := rfl

theorem zzEntry_lt (j : Nat) (h : j < 64) : zzEntry j < 64 := by
  revert h; revert j; decide

theorem zzPosition_lt (k : Nat) (h : k < 64) : zzPosition k < 64 := by
  revert h; revert k; decide

theorem zzPosition_zzEntry (j : Nat) (h : j < 64) : zzPosition (zzEntry j) = j := by
  revert h; revert j; decide

theorem zzEntry_zzPosition (k : Nat) (h : k < 64) : zzEntry (zzPosition k) = k := by
  revert h; revert k; decide

end Sys2Proof.Machine
end

