-- ==== Sys2Proof/Laws/Lengths.lean ====
section
/-! SUPPORT. How long the data are that the commands write: each fills its destination region. -/

namespace Sys2Proof.Machine

/-! ## Transform and quantizer -/

@[simp] theorem length_fdctBlock (f : List F64) : (fdctBlock f).length = 64 := length_grid 8 8 _

@[simp] theorem length_idctBlock (f : List F64) : (idctBlock f).length = 64 := length_grid 8 8 _

@[simp] theorem length_dequantBlock (t q : List Byte) : (dequantBlock t q).length = 64 :=
  length_idctBlock _

theorem length_quantBlock {t : List Byte} {f : List F64} {q : List Byte}
    (h : quantBlock t f = some q) : q.length = 64 := by
  have := length_of_allSome h
  simpa using this

theorem length_quantPlane {t : List Byte} {s : State} {src ph pw : Nat} {q : List Byte}
    (h : quantPlane t s src ph pw = some q) : q.length = pad8 ph * pad8 pw := by
  unfold quantPlane at h
  simp only [Option.map_eq_some_iff] at h
  obtain ⟨blocks, -, rfl⟩ := h
  exact length_grid _ _ _

@[simp] theorem length_dequantPlane (t : List Byte) (s : State) (src ph pw : Nat) :
    (dequantPlane t s src ph pw).length = ph * pw := length_grid _ _ _

/-! ## Colour and subsampling -/

@[simp] theorem length_planeOfRaster (s : State) (src h w : Nat) (f : F64 → F64 → F64 → F64) :
    (planeOfRaster s src h w f).length = h * w := length_grid _ _ _

theorem length_flatten_of_forall {α : Type} (ls : List (List α)) (n : Nat)
    (h : ∀ l ∈ ls, l.length = n) : ls.flatten.length = n * ls.length := by
  induction ls with
  | nil => simp
  | cons l rest ih =>
    rw [List.flatten_cons, List.length_append, h l (by simp),
      ih (fun x hx => h x (by simp [hx])), List.length_cons]
    ring

theorem length_rgbOfYcc {k : Csc} {y cb cr : F64} {l : List Byte}
    (h : rgbOfYcc k y cb cr = some l) : l.length = 3 := length_of_allSome h

theorem length_rasterOfPlanes {s : State} {y cb cr h w : Nat} {bytes : List Byte}
    (hb : rasterOfPlanes s y cb cr h w = some bytes) : bytes.length = 3 * h * w := by
  unfold rasterOfPlanes at hb
  simp only [Option.map_eq_some_iff] at hb
  obtain ⟨pixels, hp, rfl⟩ := hb
  have hlen := length_of_allSome hp
  rw [length_grid] at hlen
  rw [length_flatten_of_forall pixels 3, hlen, Nat.mul_assoc]
  intro l hl
  obtain ⟨i, hi, rfl⟩ := List.getElem_of_mem hl
  have := getElem_of_allSome hp i hi
  have hmem := List.getElem_mem (l := grid h w fun r c =>
    rgbOfYcc s.params.csc (planeSample s y w r c) (planeSample s cb w r c) (planeSample s cr w r c))
    (n := i) (by rw [length_grid, ← hlen]; exact hi)
  rw [this] at hmem
  obtain ⟨r, -, c, -, hrc⟩ := mem_grid.1 hmem
  exact length_rgbOfYcc hrc

@[simp] theorem length_decimate (s : State) (src h w : Nat) :
    (decimate s src h w).length = ceilDiv h 2 * ceilDiv w 2 := length_grid _ _ _

@[simp] theorem length_replicatePlane (s : State) (src h w : Nat) :
    (replicatePlane s src h w).length = h * w := length_grid _ _ _

/-! ## Zigzag -/

@[simp] theorem length_zigzagBlock (s : State) (src : Nat) : (zigzagBlock s src).length = 64 := by
  simp [zigzagBlock]

@[simp] theorem length_unzigzagBlock (s : State) (src : Nat) : (unzigzagBlock s src).length = 64 := by
  simp [unzigzagBlock]

theorem pad8_eq (n : Nat) : pad8 n = 8 * (pad8 n / 8) := by
  have := pad8_spec n
  omega

@[simp] theorem length_serialize (s : State) (src ph pw : Nat) :
    (serialize s src ph pw).length = pad8 ph * pad8 pw := by
  unfold serialize
  rw [length_flatten_of_forall _ 64, length_grid]
  · conv_rhs => rw [pad8_eq ph, pad8_eq pw]
    ring
  · intro l hl
    obtain ⟨r, -, c, -, rfl⟩ := mem_grid.1 hl
    simp

@[simp] theorem length_deserialize (s : State) (src ph pw : Nat) :
    (deserialize s src ph pw).length = pad8 ph * pad8 pw := length_grid _ _ _

/-! ## Zero-run code -/

theorem zrlDecode_nil (n : Nat) : zrlDecode [] n = if n = 0 then some ([], 0) else none := by
  rw [zrlDecode.eq_def]

/-- One token of the decoder: a literal (R1003). -/
theorem zrlDecode_literal {b : Byte} (hb : b ≠ 0#8) (rest : List Byte) (n : Nat) :
    zrlDecode (b :: rest) (n + 1) =
      (zrlDecode rest n).map fun p => (b :: p.1, p.2 + 1) := by
  rw [zrlDecode.eq_def]
  simp only [Nat.add_eq_zero_iff, one_ne_zero, and_false, ↓reduceIte, hb, Nat.add_sub_cancel]
  cases zrlDecode rest n <;> rfl

/-- One token of the decoder: a pair whose count fits (R1003). -/
theorem zrlDecode_pair {c : Byte} {n : Nat} (hn : n ≠ 0) (hc : c.toNat ≤ n) (rest : List Byte) :
    zrlDecode (0#8 :: c :: rest) n =
      (zrlDecode rest (n - c.toNat)).map fun p =>
        (List.replicate c.toNat 0#8 ++ p.1, p.2 + 2) := by
  rw [zrlDecode]
  simp only [hn, ↓reduceIte, Nat.not_lt.2 hc]
  cases zrlDecode rest (n - c.toNat) <;> rfl

/-- One token of the decoder: an escape at the end, or a run past the last value (R1003). -/
theorem zrlDecode_escape_end {n : Nat} (hn : n ≠ 0) : zrlDecode [0#8] n = none := by
  rw [zrlDecode]
  simp [hn]

theorem zrlDecode_run_past {c : Byte} {n : Nat} (hn : n ≠ 0) (hc : n < c.toNat)
    (rest : List Byte) : zrlDecode (0#8 :: c :: rest) n = none := by
  rw [zrlDecode]
  simp [hn, hc]

@[simp] theorem zrlDecode_zero (stream : List Byte) : zrlDecode stream 0 = some ([], 0) := by
  rw [zrlDecode.eq_def]
  simp

theorem length_zrlDecode {stream : List Byte} {n : Nat} {values : List Byte} {used : Nat}
    (h : zrlDecode stream n = some (values, used)) :
    values.length = n ∧ used ≤ stream.length := by
  induction hk : stream.length using Nat.strong_induction_on generalizing stream n values used with
  | _ k ih =>
    subst hk
    rcases Nat.eq_zero_or_pos n with rfl | hn
    · simp only [zrlDecode_zero, Option.some.injEq, Prod.mk.injEq] at h
      simp [← h.1, ← h.2]
    · match stream, h with
      | [], h => rw [zrlDecode_nil, if_neg (by omega)] at h; cases h
      | b :: rest, h =>
        by_cases hb : b = 0#8
        · subst hb
          match rest, h with
          | [], h => rw [zrlDecode_escape_end (by omega)] at h; cases h
          | c :: rest, h =>
            by_cases hc : n < c.toNat
            · rw [zrlDecode_run_past (by omega) hc] at h; cases h
            · rw [zrlDecode_pair (by omega) (by omega)] at h
              obtain ⟨⟨vs, u⟩, hp, he⟩ := Option.map_eq_some_iff.1 h
              have := ih rest.length (by simp) hp rfl
              cases he
              simp only [List.length_append, List.length_replicate, List.length_cons]
              omega
        · obtain ⟨m, rfl⟩ : ∃ m, n = m + 1 := ⟨n - 1, by omega⟩
          rw [zrlDecode_literal hb] at h
          obtain ⟨⟨vs, u⟩, hp, he⟩ := Option.map_eq_some_iff.1 h
          have := ih rest.length (by simp) hp rfl
          cases he
          simp only [List.length_cons]
          omega

/-! ## Motion -/

@[simp] theorem length_searchAll (s : State) (ref tgt h w radius : Nat) :
    (searchAll s ref tgt h w radius).length = ceilDiv h 8 * ceilDiv w 8 := length_grid _ _ _

@[simp] theorem length_vectorBytes (vs : List (Int × Int)) :
    (vectorBytes vs).length = 2 * vs.length := by
  induction vs with
  | nil => rfl
  | cons v rest ih =>
    have h : vectorBytes (v :: rest) = byteOfInt v.1 :: byteOfInt v.2 :: vectorBytes rest := rfl
    rw [h]
    simp [ih]
    omega

@[simp] theorem length_lumaResidual (s : State) (ref tgt h w : Nat) (vs : List (Int × Int)) :
    (lumaResidual s ref tgt h w vs).length = h * w := length_grid _ _ _

@[simp] theorem length_compensate (f : F64 → F64 → F64) (s : State) (base ref vec ph pw mbc : Nat) :
    (compensate f s base ref vec ph pw mbc).length = ph * pw := length_grid _ _ _

end Sys2Proof.Machine
end

