-- ==== Sys2Proof/Laws/Ops.lean ====
section
/-! SUPPORT. What the shared operations of Machine/Ops.lean and Machine/Operands.lean can do:
unspecify, the pre-checks, runCommand. -/

namespace Sys2Proof.Machine

/-! ## unspecify changes LMEM and the draw counter only -/

theorem unspecify_eq (s : State) (rs : List Region) :
    unspecify s rs = { s with lmem := (unspecify s rs).lmem, draws := s.draws + rs.length } := by
  induction rs generalizing s with
  | nil => rfl
  | cons r rest ih =>
    have h := ih (unspecifyRegion s r)
    have hu : unspecify s (r :: rest) = unspecify (unspecifyRegion s r) rest := rfl
    rw [hu, h]
    simp [unspecifyRegion, writeBytes, Nat.add_comm, Nat.add_left_comm]

theorem readByte_unspecify_outside (s : State) (rs : List Region) (a : Nat)
    (h : ∀ r ∈ rs, r.contains a = false) : readByte (unspecify s rs) a = readByte s a := by
  induction rs generalizing s with
  | nil => rfl
  | cons r rest ih =>
    have hr := h r (by simp)
    have hu : unspecify s (r :: rest) = unspecify (unspecifyRegion s r) rest := rfl
    rw [hu, ih _ (fun q hq => h q (by simp [hq]))]
    have hw : readByte (unspecifyRegion s r) a =
        readByte (writeBytes s r.base ((List.range' r.base r.len).map (Config.freeByte s.draws))) a :=
      readByte_congr rfl rfl a
    rw [hw]
    apply readByte_writeBytes_outside
    simp only [Region.contains, Bool.and_eq_false_iff, decide_eq_false_iff_not] at hr
    simp only [List.length_map, List.length_range']
    omega

theorem wf_unspecify {s : State} (h : s.lmem.wf = true) (rs : List Region) :
    (unspecify s rs).lmem.wf = true := by
  induction rs generalizing s with
  | nil => exact h
  | cons r rest ih => exact ih (s := unspecifyRegion s r) (wf_write h _ _)

/-- A byte that is listed after `unspecify` was listed before or lies in one of the regions. -/
theorem mem_unspecify {s : State} {rs : List Region} {cell : Host.Cell}
    (h : cell ∈ (unspecify s rs).lmem) :
    cell ∈ s.lmem ∨ ∃ r ∈ rs, r.contains cell.1 = true := by
  induction rs generalizing s with
  | nil => exact .inl h
  | cons r rest ih =>
    rcases ih (s := unspecifyRegion s r) h with h | ⟨q, hq, hc⟩
    · rcases mem_write h with h | h
      · exact .inl h
      · refine .inr ⟨r, by simp, ?_⟩
        simp only [List.length_map, List.length_range'] at h
        simp [Region.contains]
        omega
    · exact .inr ⟨q, by simp [hq], hc⟩

/-! ## Regions -/

theorem contains_iff (r : Region) (a : Nat) :
    r.contains a = true ↔ r.base ≤ a ∧ a < r.base + r.len := by
  simp [Region.contains]

/-- R15: regions overlap when they share an address. -/
theorem overlaps_iff (r q : Region) :
    r.overlaps q = true ↔ ∃ a, r.contains a = true ∧ q.contains a = true := by
  simp only [Region.overlaps, decide_eq_true_eq, contains_iff]
  constructor
  · intro h
    exact ⟨max r.base q.base, by omega⟩
  · rintro ⟨a, h⟩
    omega

theorem overlaps_eq_false_iff (r q : Region) :
    r.overlaps q = false ↔ ∀ a, r.contains a = true → q.contains a = false := by
  rw [← Bool.not_eq_true, overlaps_iff]
  simp only [not_exists, not_and, Bool.not_eq_true]

theorem overlaps_comm (r q : Region) : r.overlaps q = q.overlaps r := by
  simp only [Region.overlaps, max_comm, min_comm]

/-! ## The pre-checks -/

/-- The checks pass when each of them does (60_exceptions.md R1303). -/
theorem firstError_eq_none_iff (f : Footprint) (size : Nat) :
    f.firstError size = none ↔
      f.badDims = false ∧ f.argOk = true ∧ f.badRange size = false ∧ f.badAlign = false ∧
        f.limit = none ∧ f.badOverlap = false := by
  unfold Footprint.firstError
  cases f.badDims <;> cases f.argOk <;> cases f.badRange size <;> cases f.badAlign <;>
    cases f.limit <;> cases f.badOverlap <;> simp

/-- The range check passes when every operand region, the end of SETIN and SETOUT, and the cursor
pair are in range. -/
theorem badRange_eq_false_iff (f : Footprint) (size : Nat) :
    f.badRange size = false ↔
      (∀ o ∈ f.sources ++ f.dests, o.region.base + o.region.len ≤ size) ∧
      (∀ e, f.stop = some e → e.toNat ≤ size) ∧
      (∀ lo hi, f.cursors = some (lo, hi) → lo.toNat ≤ hi.toNat ∧ hi.toNat ≤ size) := by
  unfold Footprint.badRange
  simp only [Bool.or_eq_false_iff, Bool.not_eq_false', List.all_eq_true, Operand.inRange,
    decide_eq_true_eq, and_assoc]
  refine and_congr_right fun _ => and_congr ?_ ?_
  · cases f.stop <;> simp
  · rcases f.cursors with _ | ⟨lo, hi⟩ <;> simp [cursorsSane]

theorem badAlign_eq_false_iff (f : Footprint) :
    f.badAlign = false ↔
      ∀ o ∈ f.sources ++ f.dests, o.f64 = true → o.region.base % 8 = 0 := by
  unfold Footprint.badAlign
  simp only [Bool.not_eq_false', List.all_eq_true, Operand.aligned, Bool.or_eq_true,
    Bool.not_eq_true', beq_iff_eq]
  refine forall₂_congr fun o _ => ?_
  cases o.f64 <;> simp

theorem someOverlap_eq_false_iff (rs : List Region) :
    someOverlap rs = false ↔ rs.Pairwise (fun r q => r.overlaps q = false) := by
  induction rs with
  | nil => simp [someOverlap]
  | cons r rest ih => simp [someOverlap, ih]

theorem badOverlap_eq_false_iff (f : Footprint) :
    f.badOverlap = false ↔
      (∀ d ∈ f.destRegions, ∀ r ∈ f.sourceRegions, d.overlaps r = false) ∧
      f.destRegions.Pairwise (fun r q => r.overlaps q = false) := by
  unfold Footprint.badOverlap
  simp only [Bool.or_eq_false_iff, someOverlap_eq_false_iff, List.any_eq_false,
    Bool.not_eq_true]

/-! ## runCommand -/

/-- What `runCommand` can do: an error halt with nothing changed, an error halt with unspecified
destinations, or a completion. -/
theorem runCommand_cases (f : Footprint) (body : State → Except ErrCode State) (s : State) :
    (∃ e, f.firstError s.params.lmemSize = some e ∧ runCommand f body s = .next (errorHalt e s)) ∨
    (f.firstError s.params.lmemSize = none ∧
      ((∃ e, body s = .error e ∧
          runCommand f body s = .next (errorHalt e (unspecify s f.destRegions))) ∨
        ∃ s', body s = .ok s' ∧ runCommand f body s = .next (complete s'))) := by
  unfold runCommand
  cases h : f.firstError s.params.lmemSize with
  | some e => exact .inl ⟨e, rfl, rfl⟩
  | none =>
    refine .inr ⟨rfl, ?_⟩
    cases hb : body s with
    | error e => exact .inl ⟨e, rfl, rfl⟩
    | ok s' => exact .inr ⟨s', rfl, rfl⟩

theorem runCommand_error {f : Footprint} {body : State → Except ErrCode State} {s : State}
    {e : ErrCode} (h : f.firstError s.params.lmemSize = some e) :
    runCommand f body s = .next (errorHalt e s) := by
  simp [runCommand, h]

theorem runCommand_bodyError {f : Footprint} {body : State → Except ErrCode State} {s : State}
    {e : ErrCode} (h : f.firstError s.params.lmemSize = none) (hb : body s = .error e) :
    runCommand f body s = .next (errorHalt e (unspecify s f.destRegions)) := by
  simp [runCommand, h, hb]

theorem runCommand_ok {f : Footprint} {body : State → Except ErrCode State} {s s' : State}
    (h : f.firstError s.params.lmemSize = none) (hb : body s = .ok s') :
    runCommand f body s = .next (complete s') := by
  simp [runCommand, h, hb]

end Sys2Proof.Machine
end

