-- ==== Sys2Proof/Laws/Commands.lean ====
section
/-! SUPPORT. What the meaning of a command can do, said once for all of them: `exec_body` gives every
command but HALT as `runCommand` of its footprint and a body, and says what that body changes. -/

namespace Sys2Proof.Machine

/-- What a body changes: bytes of the destination regions, and the cursors. -/
structure BodyFrame (f : Footprint) (s t : State) : Prop where
  fields : t = { s with lmem := t.lmem, inp := t.inp, inEnd := t.inEnd, outp := t.outp,
                        outEnd := t.outEnd }
  bytes  : ∀ a, (∀ r ∈ f.destRegions, r.contains a = false) → readByte t a = readByte s a
  wf     : s.lmem.wf = true → t.lmem.wf = true
  cells  : ∀ cell ∈ t.lmem, cell ∈ s.lmem ∨ ∃ r ∈ f.destRegions, r.contains cell.1 = true

theorem BodyFrame.refl (f : Footprint) (s : State) : BodyFrame f s s :=
  ⟨rfl, fun _ _ => rfl, id, fun _ h => .inl h⟩

theorem BodyFrame.trans {f : Footprint} {s t u : State} (h : BodyFrame f s t)
    (k : BodyFrame f t u) : BodyFrame f s u where
  fields := by rw [k.fields, h.fields]
  bytes a ha := (k.bytes a ha).trans (h.bytes a ha)
  wf hs := k.wf (h.wf hs)
  cells c hc := (k.cells c hc).elim (h.cells c) .inr

/-- A write of at most a destination region. -/
theorem BodyFrame.write (f : Footprint) (s : State) (r : Region) (hr : r ∈ f.destRegions)
    (bs : List Byte) (hl : bs.length ≤ r.len) : BodyFrame f s (writeBytes s r.base bs) where
  fields := rfl
  bytes a ha := by
    have := ha r hr
    rw [← Bool.not_eq_true, contains_iff] at this
    exact readByte_writeBytes_outside s r.base bs a (by omega)
  wf hs := wf_write hs _ _
  cells c hc := by
    rcases mem_write hc with h | h
    · exact .inl h
    · exact .inr ⟨r, hr, by rw [contains_iff]; omega⟩

theorem BodyFrame.writeF64s (f : Footprint) (s : State) (r : Region) (hr : r ∈ f.destRegions)
    (xs : List F64) (hl : 8 * xs.length ≤ r.len) : BodyFrame f s (writeF64s s r.base xs) :=
  BodyFrame.write f s r hr _ (by rw [length_flatMap_f64Bytes]; exact hl)

theorem BodyFrame.setInput (f : Footprint) (s : State) (a e : Word) :
    BodyFrame f s (setInput a e s) := ⟨rfl, fun _ _ => rfl, id, fun _ h => .inl h⟩

theorem BodyFrame.setOutput (f : Footprint) (s : State) (a e : Word) :
    BodyFrame f s (setOutput a e s) := ⟨rfl, fun _ _ => rfl, id, fun _ h => .inl h⟩

theorem BodyFrame.advanceInput (f : Footprint) (s : State) (n : Nat) :
    BodyFrame f s (advanceInput n s) := ⟨rfl, fun _ _ => rfl, id, fun _ h => .inl h⟩

theorem BodyFrame.advanceOutput (f : Footprint) (s : State) (n : Nat) :
    BodyFrame f s (advanceOutput n s) := ⟨rfl, fun _ _ => rfl, id, fun _ h => .inl h⟩

/-- What a body may answer: a state that keeps the frame, or the command's execution-time error
(60_exceptions.md R1304). -/
def BodyAnswers (late : Option ErrCode) (f : Footprint) (s : State) (x : Except ErrCode State) : Prop :=
  match x with
  | .ok t => BodyFrame f s t
  | .error e => late = some e

/-- The three execution-time errors (60_exceptions.md R1304). -/
theorem executionError_cases {i : Instr} {e : ErrCode} (h : executionError i = some e) :
    e = .numeric ∨ e = .malformed ∨ e = .overflow := by
  cases i <;> cases h <;> simp

/-- A body that answers one state. -/
theorem body_ok {late : Option ErrCode} {f : Footprint} {s t : State} (h : BodyFrame f s t) :
    BodyAnswers late f s (.ok t) := h

/-- The bytes a quantizer or colour body writes, if it answers. -/
theorem body_option {f : Footprint} {s : State} {r : Region} (hr : r ∈ f.destRegions)
    {o : Option (List Byte)} : (∀ bs, o = some bs → bs.length ≤ r.len) →
    BodyAnswers (some .numeric) f s (match o with
      | none => Except.error ErrCode.numeric
      | some bs => Except.ok (writeBytes s r.base bs)) := by
  intro hl
  cases o with
  | none => exact rfl
  | some bs => exact BodyFrame.write f s r hr bs (hl bs rfl)

/-- Every command but HALT runs its checks, and a body that changes its destination regions and the
cursors only. -/
theorem exec_body (i : Instr) (h : i ≠ .halt) (s : State) :
    ∃ body, exec i s = runCommand (footprintOf i s) body s ∧
      BodyAnswers (executionError i) (footprintOf i s) s (body s) := by
  cases i with
  | nop =>
    unfold exec execNop
    refine ⟨_, rfl, ?_⟩
    exact body_ok (.refl _ _)
  | halt => exact absurd rfl h
  | setin a e =>
    unfold exec execSetin
    refine ⟨_, rfl, ?_⟩
    exact body_ok (.setInput _ _ _ _)
  | setout a e =>
    unfold exec execSetout
    refine ⟨_, rfl, ?_⟩
    exact body_ok (.setOutput _ _ _ _)
  | sput src n =>
    unfold exec execSput
    refine ⟨_, rfl, body_ok (.trans (.write _ s ⟨s.outp.toNat, n.toNat⟩ ?_ _ ?_)
      (.advanceOutput _ _ _))⟩
    · simp [footprintOf, sputFootprint, Footprint.destRegions]
    · rw [length_readBytes]
  | sget dst n =>
    unfold exec execSget
    refine ⟨_, rfl, body_ok (.trans (.write _ s ⟨dst.toNat, n.toNat⟩ ?_ _ ?_)
      (.advanceInput _ _ _))⟩
    · simp [footprintOf, sgetFootprint, Footprint.destRegions, bytesOperand]
    · rw [length_readBytes]
  | cscf src y cb cr d =>
    unfold exec execCscf
    refine ⟨_, rfl, body_ok (.trans (.trans
      (.writeF64s _ s ⟨y.toNat, 8 * dimsH d * dimsW d⟩ ?_ _ ?_)
      (.writeF64s _ _ ⟨cb.toNat, 8 * dimsH d * dimsW d⟩ ?_ _ ?_))
      (.writeF64s _ _ ⟨cr.toNat, 8 * dimsH d * dimsW d⟩ ?_ _ ?_))⟩ <;>
    simp [footprintOf, cscfFootprint, Footprint.destRegions, rplane, Nat.mul_assoc]
  | csci y cb cr dst d =>
    unfold exec execCsci
    refine ⟨_, rfl, body_option (r := ⟨dst.toNat, 3 * dimsH d * dimsW d⟩) ?_ ?_⟩
    · simp [footprintOf, csciFootprint, Footprint.destRegions, raster]
    · intro bs hb
      rw [length_rasterOfPlanes hb]
  | subs src dst d =>
    unfold exec execSubs
    refine ⟨_, rfl, body_ok (.writeF64s _ s
      ⟨dst.toNat, 8 * ceilDiv (dimsH d) 2 * ceilDiv (dimsW d) 2⟩ ?_ _ ?_)⟩ <;>
    simp [footprintOf, subsFootprint, Footprint.destRegions, rplane, Nat.mul_assoc]
  | ups src dst d =>
    unfold exec execUps
    refine ⟨_, rfl, body_ok (.writeF64s _ s ⟨dst.toNat, 8 * dimsH d * dimsW d⟩ ?_ _ ?_)⟩ <;>
    simp [footprintOf, upsFootprint, Footprint.destRegions, rplane, Nat.mul_assoc]
  | fdct src dst =>
    unfold exec execFdct
    refine ⟨_, rfl, body_ok (.writeF64s _ s ⟨dst.toNat, 512⟩ ?_ _ ?_)⟩ <;>
    simp [footprintOf, transformFootprint, Footprint.destRegions, rblk]
  | idct src dst =>
    unfold exec execIdct
    refine ⟨_, rfl, body_ok (.writeF64s _ s ⟨dst.toNat, 512⟩ ?_ _ ?_)⟩ <;>
    simp [footprintOf, transformFootprint, Footprint.destRegions, rblk]
  | quant src dst =>
    unfold exec execQuant quantCommand
    refine ⟨_, rfl, body_option (r := ⟨dst.toNat, 64⟩) ?_ ?_⟩
    · simp [footprintOf, quantFootprint, Footprint.destRegions, iblk]
    · intro bs hb
      rw [length_quantBlock hb]
  | quantC src dst =>
    unfold exec execQuantC quantCommand
    refine ⟨_, rfl, body_option (r := ⟨dst.toNat, 64⟩) ?_ ?_⟩
    · simp [footprintOf, quantFootprint, Footprint.destRegions, iblk]
    · intro bs hb
      rw [length_quantBlock hb]
  | dequant src dst =>
    unfold exec execDequant dequantCommand
    refine ⟨_, rfl, body_ok (.writeF64s _ s ⟨dst.toNat, 512⟩ ?_ _ ?_)⟩ <;>
    simp [footprintOf, dequantFootprint, Footprint.destRegions, rblk]
  | dequantC src dst =>
    unfold exec execDequantC dequantCommand
    refine ⟨_, rfl, body_ok (.writeF64s _ s ⟨dst.toNat, 512⟩ ?_ _ ?_)⟩ <;>
    simp [footprintOf, dequantFootprint, Footprint.destRegions, rblk]
  | qplane src dst d =>
    unfold exec execQplane qplaneCommand
    refine ⟨_, rfl, body_option
      (r := ⟨dst.toNat, pad8 (planeRows false d) * pad8 (planeCols false d)⟩) ?_ ?_⟩
    · simp [footprintOf, qplaneFootprint, Footprint.destRegions, qplaneOperand]
    · intro bs hb
      rw [length_quantPlane hb]
  | qplaneC src dst d =>
    unfold exec execQplaneC qplaneCommand
    refine ⟨_, rfl, body_option
      (r := ⟨dst.toNat, pad8 (planeRows true d) * pad8 (planeCols true d)⟩) ?_ ?_⟩
    · simp [footprintOf, qplaneFootprint, Footprint.destRegions, qplaneOperand]
    · intro bs hb
      rw [length_quantPlane hb]
  | dqplane src dst d =>
    unfold exec execDqplane dqplaneCommand
    refine ⟨_, rfl, body_ok (.writeF64s _ s
      ⟨dst.toNat, 8 * planeRows false d * planeCols false d⟩ ?_ _ ?_)⟩ <;>
    simp [footprintOf, dqplaneFootprint, Footprint.destRegions, rplane, Nat.mul_assoc]
  | dqplaneC src dst d =>
    unfold exec execDqplaneC dqplaneCommand
    refine ⟨_, rfl, body_ok (.writeF64s _ s
      ⟨dst.toNat, 8 * planeRows true d * planeCols true d⟩ ?_ _ ?_)⟩ <;>
    simp [footprintOf, dqplaneFootprint, Footprint.destRegions, rplane, Nat.mul_assoc]
  | zz src dst =>
    unfold exec execZz
    refine ⟨_, rfl, body_ok (.write _ s ⟨dst.toNat, 64⟩ ?_ _ ?_)⟩ <;>
    simp [footprintOf, zigzagFootprint, Footprint.destRegions, iblk]
  | unzz src dst =>
    unfold exec execUnzz
    refine ⟨_, rfl, body_ok (.write _ s ⟨dst.toNat, 64⟩ ?_ _ ?_)⟩ <;>
    simp [footprintOf, zigzagFootprint, Footprint.destRegions, iblk]
  | ser src dst d =>
    unfold exec execSer serCommand
    refine ⟨_, rfl, body_ok (.write _ s
      ⟨dst.toNat, pad8 (planeRows false d) * pad8 (planeCols false d)⟩ ?_ _ ?_)⟩ <;>
    simp [footprintOf, serFootprint, Footprint.destRegions, bytesOperand]
  | serC src dst d =>
    unfold exec execSerC serCommand
    refine ⟨_, rfl, body_ok (.write _ s
      ⟨dst.toNat, pad8 (planeRows true d) * pad8 (planeCols true d)⟩ ?_ _ ?_)⟩ <;>
    simp [footprintOf, serFootprint, Footprint.destRegions, bytesOperand]
  | deser src dst d =>
    unfold exec execDeser deserCommand
    refine ⟨_, rfl, body_ok (.write _ s
      ⟨dst.toNat, pad8 (planeRows false d) * pad8 (planeCols false d)⟩ ?_ _ ?_)⟩ <;>
    simp [footprintOf, deserFootprint, Footprint.destRegions, qplaneOperand]
  | deserC src dst d =>
    unfold exec execDeserC deserCommand
    refine ⟨_, rfl, body_ok (.write _ s
      ⟨dst.toNat, pad8 (planeRows true d) * pad8 (planeCols true d)⟩ ?_ _ ?_)⟩ <;>
    simp [footprintOf, deserFootprint, Footprint.destRegions, qplaneOperand]
  | zrle src n =>
    unfold exec execZrle
    refine ⟨_, rfl, ?_⟩
    dsimp only
    split
    · exact rfl
    · refine body_ok (.trans (.write _ s (streamRegion s.outp s.outEnd) ?_ _ ?_)
        (.advanceOutput _ _ _))
      · simp [footprintOf, zrleFootprint, Footprint.destRegions]
      · simp only [streamRegion]
        omega
  | zrld dst n =>
    unfold exec execZrld
    refine ⟨_, rfl, ?_⟩
    split
    · exact rfl
    · rename_i heq
      refine body_ok (.trans (.write _ s ⟨dst.toNat, n.toNat⟩ ?_ _ ?_)
        (.advanceInput _ _ _))
      · simp [footprintOf, zrldFootprint, Footprint.destRegions, bytesOperand]
      · exact (length_zrlDecode heq).1.le
  | me ref tgt vec res d radius =>
    unfold exec execMe
    refine ⟨_, rfl, body_ok (.trans
      (.write _ s ⟨vec.toNat, 2 * ceilDiv (dimsH d) 8 * ceilDiv (dimsW d) 8⟩ ?_ _ ?_)
      (.writeF64s _ _ ⟨res.toNat, 8 * dimsH d * dimsW d⟩ ?_ _ ?_))⟩ <;>
    simp [footprintOf, meFootprint, Footprint.destRegions, rplane, vecList, Nat.mul_assoc]
  | psub tgt ref vec dst d =>
    unfold exec execPsub compensateCommand
    refine ⟨_, rfl, body_ok (.writeF64s _ s
      ⟨dst.toNat, 8 * planeRows false d * planeCols false d⟩ ?_ _ ?_)⟩ <;>
    simp [footprintOf, compensateFootprint, Footprint.destRegions, rplane, Nat.mul_assoc]
  | padd tgt ref vec dst d =>
    unfold exec execPadd compensateCommand
    refine ⟨_, rfl, body_ok (.writeF64s _ s
      ⟨dst.toNat, 8 * planeRows false d * planeCols false d⟩ ?_ _ ?_)⟩ <;>
    simp [footprintOf, compensateFootprint, Footprint.destRegions, rplane, Nat.mul_assoc]
  | psubC tgt ref vec dst d =>
    unfold exec execPsubC compensateCommand
    refine ⟨_, rfl, body_ok (.writeF64s _ s
      ⟨dst.toNat, 8 * planeRows true d * planeCols true d⟩ ?_ _ ?_)⟩ <;>
    simp [footprintOf, compensateFootprint, Footprint.destRegions, rplane, Nat.mul_assoc]
  | paddC tgt ref vec dst d =>
    unfold exec execPaddC compensateCommand
    refine ⟨_, rfl, body_ok (.writeF64s _ s
      ⟨dst.toNat, 8 * planeRows true d * planeCols true d⟩ ?_ _ ?_)⟩ <;>
    simp [footprintOf, compensateFootprint, Footprint.destRegions, rplane, Nat.mul_assoc]

/-- No pre-check reports the code NONE. -/
theorem firstError_ne_none (i : Instr) (s : State) (size : Nat) :
    (footprintOf i s).firstError size ≠ some .none := by
  have hl : (footprintOf i s).limit ≠ some .none := by
    cases i <;> simp [footprintOf, sputFootprint, sgetFootprint, zrleFootprint, zrldFootprint,
      setFootprint, cscfFootprint, csciFootprint, subsFootprint, upsFootprint, transformFootprint,
      quantFootprint, dequantFootprint, qplaneFootprint, dqplaneFootprint, zigzagFootprint,
      serFootprint, deserFootprint, meFootprint, compensateFootprint]
  generalize footprintOf i s = f at hl
  unfold Footprint.firstError
  cases f.badDims <;> cases f.argOk <;> cases f.badRange size <;> cases f.badAlign <;>
    cases h : f.limit <;> cases f.badOverlap <;> simp_all

/-- What a command can do: HALT ends the list; any other command raises an error in its checks,
raises one while it computes, or completes. -/
theorem exec_cases (i : Instr) (s : State) :
    (i = .halt ∧ exec i s = .next (completeHalt s)) ∨
    (i ≠ .halt ∧ ∃ e, (footprintOf i s).firstError s.params.lmemSize = some e ∧ e ≠ .none ∧
      exec i s = .next (errorHalt e s)) ∨
    (i ≠ .halt ∧ (footprintOf i s).firstError s.params.lmemSize = none ∧
      ((∃ e, executionError i = some e ∧
          exec i s = .next (errorHalt e (unspecify s (footprintOf i s).destRegions))) ∨
       (∃ t, BodyFrame (footprintOf i s) s t ∧ exec i s = .next (complete t)))) := by
  by_cases h : i = .halt
  · subst h
    exact .inl ⟨rfl, rfl⟩
  · obtain ⟨body, he, hb⟩ := exec_body i h s
    rw [he]
    rcases runCommand_cases (footprintOf i s) body s with ⟨e, hf, hr⟩ | ⟨hn, ⟨e, hx, hr⟩ | ⟨t, ht, hr⟩⟩
    · refine .inr (.inl ⟨h, e, hf, ?_, hr⟩)
      rintro rfl
      exact firstError_ne_none i s _ hf
    · rw [hx] at hb
      exact .inr (.inr ⟨h, hn, .inl ⟨e, hb, hr⟩⟩)
    · rw [ht] at hb
      exact .inr (.inr ⟨h, hn, .inr ⟨t, hb, hr⟩⟩)

/-- A command whose checks pass writes inside LMEM only (20_memory.md R213, 40_control.md R404). -/
theorem destRegions_in_range (i : Instr) (s : State)
    (h : (footprintOf i s).firstError s.params.lmemSize = none) :
    ∀ r ∈ (footprintOf i s).destRegions, r.base + r.len ≤ s.params.lmemSize := by
  obtain ⟨-, -, hr, -, hl, -⟩ := (firstError_eq_none_iff _ _).1 h
  obtain ⟨ho, -, hc⟩ := (badRange_eq_false_iff _ _).1 hr
  intro r hr
  simp only [Footprint.destRegions, List.mem_append, List.mem_map] at hr
  rcases hr with ⟨o, hm, rfl⟩ | hm
  · exact ho o (by simp [hm])
  · cases i with
    | sput src n =>
      simp only [footprintOf, sputFootprint, List.mem_singleton] at hm hc hl
      have := hc _ _ rfl
      subst hm
      split at hl
      · cases hl
      · simp only
        omega
    | zrle src n =>
      simp only [footprintOf, zrleFootprint, List.mem_singleton] at hm hc
      have := hc _ _ rfl
      subst hm
      simp only [streamRegion]
      omega
    | _ => cases hm

end Sys2Proof.Machine
end

