-- ==== Sys2Proof/Laws/Host.lean ====
section
/-! SUPPORT. What a host access can do, said once. -/

namespace Sys2Proof.Machine

/-- The engine's side is as it was: the parameters, STATUS, ERR_CODE, CP, CMD_COUNT, the boundaries,
and, while busy, CLP, the cursors and LMEM too (10_state.md R116). -/
structure KeepsEngine (s t : State) : Prop where
  params     : t.params = s.params
  status     : SameStatus s t
  cp         : t.cp = s.cp
  count      : t.cmdCount = s.cmdCount
  boundaries : t.boundaries = s.boundaries
  inReset    : t.inReset = s.inReset
  lmemDraw   : t.lmemDraw = s.lmemDraw
  inputs     : t.inputs = s.inputs
  whenBusy   : s.busy = true → t.clp = s.clp ∧ SameInput s t ∧ SameOutput s t ∧ t.lmem = s.lmem

theorem KeepsEngine.refl (s : State) : KeepsEngine s s :=
  ⟨rfl, ⟨rfl, rfl, rfl, rfl⟩, rfl, rfl, rfl, rfl, rfl, rfl, fun _ => ⟨rfl, ⟨rfl, rfl⟩, ⟨rfl, rfl⟩, rfl⟩⟩

/-- An answered access, seen from the engine, is the access. -/
theorem KeepsEngine.reply {s t : State} (h : KeepsEngine s t) (r : Reply) :
    KeepsEngine s (reply r t) :=
  ⟨h.params, h.status, h.cp, h.count, h.boundaries, h.inReset, h.lmemDraw, h.inputs, h.whenBusy⟩

/-- An LMEM access of an idle machine keeps the engine's side. -/
theorem KeepsEngine.lmemAccess (r : HostReq) {s : State} (hb : s.busy = false) :
    KeepsEngine s (lmemAccess r s) := by
  unfold Sys2Proof.Machine.lmemAccess
  dsimp only
  split
  · exact (KeepsEngine.refl s).reply _
  · split
    · refine KeepsEngine.reply (s := s) (t := writeBytes s _ _)
        ⟨rfl, ⟨rfl, rfl, rfl, rfl⟩, rfl, rfl, rfl, rfl, rfl, rfl,
        fun h => ?_⟩ _
      rw [hb] at h
      cases h
    · exact (KeepsEngine.refl s).reply _

theorem addr_eq_of_toNat {r : HostReq} {n : Nat} (h : r.addr.toNat = n) :
    r.addr = BitVec.ofNat 25 n := by
  rw [← h, BitVec.ofNat_toNat, BitVec.setWidth_eq]

/-- A register write, by its effect on the engine's side. -/
theorem regWrite_cases (off : Nat) (v : Word) (s : State) :
    (off = 0x004 ∧ v.getLsbD 1 = true ∧ regWrite off v s = softReset s) ∨
    (off = 0x004 ∧ v.getLsbD 1 = false ∧ v.getLsbD 0 = true ∧ s.busy = false ∧
      regWrite off v s = startList s) ∨
    (off = 0x008 ∧ regWrite off v s = writeStatus v s) ∨
    (off = 0x00C ∧ regWrite off v s = writeIrqEn v s) ∨
    (off ≠ 0x00C ∧ KeepsEngine s (regWrite off v s) ∧ (regWrite off v s).doneIe = s.doneIe ∧
      (regWrite off v s).errIe = s.errIe) := by
  unfold regWrite
  by_cases h1 : off = 0x004
  · subst h1
    rw [if_pos rfl]
    unfold writeCtrl
    cases hv : v.getLsbD 1 with
    | true => exact .inl ⟨rfl, rfl, rfl⟩
    | false =>
      by_cases hs : (v.getLsbD 0 && !s.busy) = true
      · refine .inr (.inl ?_)
        have h := hs
        simp only [Bool.and_eq_true, Bool.not_eq_true'] at h
        exact ⟨rfl, rfl, h.1, h.2, by rw [if_neg (by simp), if_pos hs]⟩
      · refine .inr (.inr (.inr (.inr ?_)))
        rw [if_neg (by simp), if_neg hs]
        exact ⟨by decide, .refl s, rfl, rfl⟩
  · rw [if_neg h1]
    by_cases h2 : off = 0x008
    · exact .inr (.inr (.inl ⟨h2, by rw [if_pos h2]⟩))
    · rw [if_neg h2]
      by_cases h3 : off = 0x00C
      · exact .inr (.inr (.inr (.inl ⟨h3, by rw [if_pos h3]⟩)))
      · rw [if_neg h3]
        refine .inr (.inr (.inr (.inr ⟨h3, ?_⟩)))
        split_ifs with hb
        · exact ⟨.refl s, rfl, rfl⟩
        all_goals
          exact ⟨⟨rfl, ⟨rfl, rfl, rfl, rfl⟩, rfl, rfl, rfl, rfl, rfl, rfl, fun h => absurd h hb⟩,
            rfl, rfl⟩

/-- A host access, by its effect on the engine's side. -/
theorem hostAccess_cases (r : HostReq) (s : State) :
    (s.inReset = false ∧ isSrst r ∧ hostAccess r s = reply .ack (softReset s)) ∨
    (s.inReset = false ∧ isStart r ∧ s.busy = false ∧ hostAccess r s = reply .ack (startList s)) ∨
    (∃ v, r = writeReq 0x008 v ∧ hostAccess r s = reply .ack (writeStatus v s)) ∨
    (∃ v, r = writeReq 0x00C v ∧ hostAccess r s = reply .ack (writeIrqEn v s)) ∨
    (KeepsEngine s (hostAccess r s) ∧ (hostAccess r s).doneIe = s.doneIe ∧
      (hostAccess r s).errIe = s.errIe) := by
  have hk : ∀ q : Reply, KeepsEngine s (reply q s) ∧ (reply q s).doneIe = s.doneIe ∧
      (reply q s).errIe = s.errIe := fun q => ⟨(KeepsEngine.refl s).reply q, rfl, rfl⟩
  unfold hostAccess
  by_cases h1 : s.inReset = true
  · rw [if_pos h1]
    exact .inr (.inr (.inr (.inr (hk _))))
  rw [if_neg h1]
  have hr : s.inReset = false := by simpa using h1
  by_cases h2 : r.addr.toNat < 0x1000
  · rw [if_pos h2]
    unfold regAccess
    by_cases hw : r.we = true
    · rw [if_pos hw]
      by_cases ho : regAccessOk r = true
      · rw [if_pos ho]
        have hsz : r.size = 2#2 := by
          simp only [regAccessOk, Bool.and_eq_true, beq_iff_eq] at ho
          exact ho.1
        rcases regWrite_cases r.addr.toNat r.wdata s with ⟨ha, hv, he⟩ | ⟨ha, hv, hv', hb, he⟩ |
          ⟨ha, he⟩ | ⟨ha, he⟩ | ⟨-, he, hd, hi⟩
        · exact .inl ⟨hr, ⟨hw, hsz, addr_eq_of_toNat ha, hv⟩, by rw [he]⟩
        · exact .inr (.inl ⟨hr, ⟨hw, hsz, addr_eq_of_toNat ha, hv', hv⟩, hb, by rw [he]⟩)
        · refine .inr (.inr (.inl ⟨r.wdata, ?_, by rw [he]⟩))
          obtain ⟨we, addr, size, wdata⟩ := r
          have := addr_eq_of_toNat ha
          simp only at this hw hsz
          subst this hw hsz
          rfl
        · refine .inr (.inr (.inr (.inl ⟨r.wdata, ?_, by rw [he]⟩)))
          obtain ⟨we, addr, size, wdata⟩ := r
          have := addr_eq_of_toNat ha
          simp only at this hw hsz
          subst this hw hsz
          rfl
        · exact .inr (.inr (.inr (.inr ⟨he.reply _, hd, hi⟩)))
      · rw [if_neg ho]
        exact .inr (.inr (.inr (.inr (hk _))))
    · rw [if_neg hw]
      refine .inr (.inr (.inr (.inr ?_)))
      dsimp only
      split_ifs
      · exact ⟨⟨rfl, ⟨rfl, rfl, rfl, rfl⟩, rfl, rfl, rfl, rfl, rfl, rfl,
          fun _ => ⟨rfl, ⟨rfl, rfl⟩, ⟨rfl, rfl⟩, rfl⟩⟩, rfl, rfl⟩
      · exact hk _
      · exact hk _
  · rw [if_neg h2]
    refine .inr (.inr (.inr (.inr ?_)))
    by_cases h3 : inWindow r s = true
    · rw [if_pos h3]
      by_cases hb : s.busy = true
      · rw [if_pos hb]
        exact ⟨⟨rfl, ⟨rfl, rfl, rfl, rfl⟩, rfl, rfl, rfl, rfl, rfl, rfl,
          fun _ => ⟨rfl, ⟨rfl, rfl⟩, ⟨rfl, rfl⟩, rfl⟩⟩, rfl, rfl⟩
      · rw [if_neg hb]
        refine ⟨.lmemAccess r (by simpa using hb), ?_⟩
        unfold lmemAccess
        dsimp only
        split
        · exact ⟨rfl, rfl⟩
        · split <;> exact ⟨rfl, rfl⟩
    · rw [if_neg h3]
      exact hk _

end Sys2Proof.Machine
end

