-- ==== Sys2Proof/Laws/PerInstr.lean ====
section
/-! SUPPORT. Statements about every command as syntax, one lemma per constructor. -/

namespace Sys2Proof.Laws.UnusedWordsZero

/-- The encoding holds the operands in W1, W2, … in order, and 0 in every operand word the command
does not use (30_encoding.md R311). -/
def Statement (i : Instr) : Prop :=
  (encode i).words.drop 1 = i.operands ++ List.replicate (7 - i.operands.length) 0

theorem nop : Statement (.nop) := rfl

theorem halt : Statement (.halt) := rfl

theorem setin (addr stop : Word) : Statement (.setin addr stop) := rfl

theorem setout (addr stop : Word) : Statement (.setout addr stop) := rfl

theorem sput (src n : Word) : Statement (.sput src n) := rfl

theorem sget (dst n : Word) : Statement (.sget dst n) := rfl

theorem cscf (src y cb cr dims : Word) : Statement (.cscf src y cb cr dims) := rfl

theorem csci (y cb cr dst dims : Word) : Statement (.csci y cb cr dst dims) := rfl

theorem subs (src dst dims : Word) : Statement (.subs src dst dims) := rfl

theorem ups (src dst dims : Word) : Statement (.ups src dst dims) := rfl

theorem fdct (src dst : Word) : Statement (.fdct src dst) := rfl

theorem idct (src dst : Word) : Statement (.idct src dst) := rfl

theorem quant (src dst : Word) : Statement (.quant src dst) := rfl

theorem quantC (src dst : Word) : Statement (.quantC src dst) := rfl

theorem dequant (src dst : Word) : Statement (.dequant src dst) := rfl

theorem dequantC (src dst : Word) : Statement (.dequantC src dst) := rfl

theorem qplane (src dst dims : Word) : Statement (.qplane src dst dims) := rfl

theorem qplaneC (src dst dims : Word) : Statement (.qplaneC src dst dims) := rfl

theorem dqplane (src dst dims : Word) : Statement (.dqplane src dst dims) := rfl

theorem dqplaneC (src dst dims : Word) : Statement (.dqplaneC src dst dims) := rfl

theorem zz (src dst : Word) : Statement (.zz src dst) := rfl

theorem unzz (src dst : Word) : Statement (.unzz src dst) := rfl

theorem ser (src dst dims : Word) : Statement (.ser src dst dims) := rfl

theorem serC (src dst dims : Word) : Statement (.serC src dst dims) := rfl

theorem deser (src dst dims : Word) : Statement (.deser src dst dims) := rfl

theorem deserC (src dst dims : Word) : Statement (.deserC src dst dims) := rfl

theorem zrle (src n : Word) : Statement (.zrle src n) := rfl

theorem zrld (dst n : Word) : Statement (.zrld dst n) := rfl

theorem me (ref tgt vec res dims radius : Word) : Statement (.me ref tgt vec res dims radius) := rfl

theorem psub (tgt ref vec dst dims : Word) : Statement (.psub tgt ref vec dst dims) := rfl

theorem psubC (tgt ref vec dst dims : Word) : Statement (.psubC tgt ref vec dst dims) := rfl

theorem padd (res ref vec dst dims : Word) : Statement (.padd res ref vec dst dims) := rfl

theorem paddC (res ref vec dst dims : Word) : Statement (.paddC res ref vec dst dims) := rfl

end Sys2Proof.Laws.UnusedWordsZero
end

