-- ==== Sys2Proof/Laws/Reads.lean ====
section
/-! SUPPORT. Everything a command computes from LMEM depends on the bytes it reads alone: two states
with the same bytes give the same data. -/

namespace Sys2Proof.Machine

variable {s t : State}

theorem readByte_eq_of_lmem (hm : t.lmem = s.lmem) (hd : t.lmemDraw = s.lmemDraw) :
    readByte t = readByte s := funext (readByte_congr hm hd)

theorem readBytes_eq (h : readByte t = readByte s) : readBytes t = readBytes s := by
  unfold readBytes; rw [h]

theorem readI8_eq (h : readByte t = readByte s) : readI8 t = readI8 s := by
  unfold readI8; rw [h]

theorem readU32_eq (h : readByte t = readByte s) : readU32 t = readU32 s := by
  unfold readU32; rw [h]

theorem readF64_eq (h : readByte t = readByte s) : readF64 t = readF64 s := by
  unfold readF64; rw [readU32_eq h]

theorem readBlock_eq (h : readByte t = readByte s) : readBlock t = readBlock s := by
  unfold readBlock; rw [readF64_eq h]

theorem planeSample_eq (h : readByte t = readByte s) : planeSample t = planeSample s := by
  unfold planeSample; rw [readF64_eq h]

theorem planeOfRaster_eq (h : readByte t = readByte s) : planeOfRaster t = planeOfRaster s := by
  unfold planeOfRaster; rw [h]

theorem rasterOfPlanes_eq (h : readByte t = readByte s) (hp : t.params = s.params) :
    rasterOfPlanes t = rasterOfPlanes s := by
  unfold rasterOfPlanes; rw [planeSample_eq h, hp]

theorem decimate_eq (h : readByte t = readByte s) : decimate t = decimate s := by
  unfold decimate; rw [planeSample_eq h]

theorem replicatePlane_eq (h : readByte t = readByte s) : replicatePlane t = replicatePlane s := by
  unfold replicatePlane; rw [planeSample_eq h]

theorem quantTable_eq (c : Bool) (hp : t.params = s.params) : quantTable c t = quantTable c s := by
  unfold quantTable; rw [hp]

theorem quantPlane_eq (T : List Byte) (h : readByte t = readByte s) :
    quantPlane T t = quantPlane T s := by
  unfold quantPlane paddedBlock; rw [planeSample_eq h]

theorem dequantPlane_eq (T : List Byte) (h : readByte t = readByte s) :
    dequantPlane T t = dequantPlane T s := by
  unfold dequantPlane codedBlock; rw [h]

theorem zigzagBlock_eq (h : readByte t = readByte s) : zigzagBlock t = zigzagBlock s := by
  unfold zigzagBlock; rw [h]

theorem unzigzagBlock_eq (h : readByte t = readByte s) : unzigzagBlock t = unzigzagBlock s := by
  unfold unzigzagBlock; rw [h]

theorem serialize_eq (h : readByte t = readByte s) : serialize t = serialize s := by
  unfold serialize; rw [h]

theorem deserialize_eq (h : readByte t = readByte s) : deserialize t = deserialize s := by
  unfold deserialize; rw [h]

theorem searchAll_eq (h : readByte t = readByte s) : searchAll t = searchAll s := by
  unfold searchAll; rw [planeSample_eq h]

theorem lumaResidual_eq (h : readByte t = readByte s) : lumaResidual t = lumaResidual s := by
  unfold lumaResidual; rw [planeSample_eq h]

theorem compensate_eq (f : F64 → F64 → F64) (h : readByte t = readByte s) :
    compensate f t = compensate f s := by
  unfold compensate prediction; rw [planeSample_eq h, readI8_eq h]

end Sys2Proof.Machine
end

