-- ==== Sys2Proof/Laws/Ready.lean ====
section
/-! SUPPORT. The conditions of Safety.lean under which a command's checks pass, as
`firstError … = none` (60_exceptions.md R1303). -/

namespace Sys2Proof.Machine

/-! ## Regions apart -/

theorem apart_iff (r q : Region) :
    Apart r.base r.len q.base q.len ↔ r.overlaps q = false := by
  rw [overlaps_eq_false_iff]
  constructor
  · intro h a ha
    rw [contains_iff] at ha
    rw [← Bool.not_eq_true, contains_iff]
    exact fun h2 => h a ha.1 ha.2 h2.1 h2.2
  · intro h x h1 h2 h3 h4
    have := h x ((contains_iff _ _).2 ⟨h1, h2⟩)
    rw [← Bool.not_eq_true, contains_iff] at this
    exact this ⟨h3, h4⟩

theorem Apart.symm {a n b m : Nat} (h : Apart a n b m) : Apart b m a n :=
  fun x h1 h2 h3 h4 => h x h3 h4 h1 h2

/-- What is apart from a plane is apart from each of its samples. -/
theorem Apart.element {a n b h w r c : Nat} (hA : Apart a n b (8 * h * w)) (hr : r < h) (hc : c < w) :
    Apart a n (b + 8 * (r * w + c)) 8 := by
  have := grid_index_lt hr hc
  intro x h1 h2 h3 h4
  refine hA x h1 h2 (by omega) ?_
  rw [Nat.mul_assoc]
  omega

/-! ## Dimensions -/

theorem badDims_of_legal {f : Footprint} {d : Word} (h : DimsLegal d) (hd : f.dims = some d) :
    f.badDims = false := by
  have h1 := h.1
  have h2 := h.2
  simp only [Footprint.badDims, hd, Bool.or_eq_false_iff, beq_eq_false_iff_ne]
  omega

theorem badDims_of_none {f : Footprint} (hd : f.dims = none) : f.badDims = false := by
  simp [Footprint.badDims, hd]

/-! ## Commands -/

/-- A command with one source and one destination. -/
theorem firstError_of_move {f : Footprint} {s : State} {src dst : Word} {n m : Nat} {sf df : Bool}
    (h : ReadyMove s src n sf dst m df) (hd : f.badDims = false) (ha : f.argOk = true)
    (h1 : f.sources = [⟨⟨src.toNat, n⟩, sf⟩]) (h2 : f.dests = [⟨⟨dst.toNat, m⟩, df⟩])
    (h3 : f.stop = none) (h4 : f.cursors = none) (h5 : f.limit = none)
    (h6 : f.streamSources = []) (h7 : f.streamDests = []) :
    f.firstError s.params.lmemSize = none := by
  rw [firstError_eq_none_iff]
  refine ⟨hd, ha, ?_, ?_, h5, ?_⟩
  · rw [badRange_eq_false_iff, h1, h2, h3, h4]
    simpa [Fits] using h.fits
  · rw [badAlign_eq_false_iff, h1, h2]
    simpa [Mult8] using h.align
  · rw [badOverlap_eq_false_iff]
    simp only [Footprint.destRegions, Footprint.sourceRegions, h1, h2, h6, h7]
    simpa using (apart_iff ⟨dst.toNat, m⟩ ⟨src.toNat, n⟩).1 h.apart

theorem firstError_sput {s : State} {src n : Word} (h : ReadySput s src n) :
    (sputFootprint src n s).firstError s.params.lmemSize = none := by
  have h1 := h.room
  have h2 := h.cursors
  rw [firstError_eq_none_iff]
  refine ⟨rfl, rfl, ?_, ?_, ?_, ?_⟩
  · rw [badRange_eq_false_iff]
    have := h.fits
    simpa [sputFootprint, bytesOperand, Fits, CursorsSane] using ⟨this, h2⟩
  · rw [badAlign_eq_false_iff]
    simp [sputFootprint, bytesOperand]
  · simp only [sputFootprint]
    rw [if_neg (by omega)]
  · rw [badOverlap_eq_false_iff]
    have := (apart_iff ⟨s.outp.toNat, n.toNat⟩ ⟨src.toNat, n.toNat⟩).1 h.apart.symm
    simpa [sputFootprint, bytesOperand, Footprint.destRegions, Footprint.sourceRegions] using this

theorem firstError_sget {s : State} {dst n : Word} (h : ReadySget s dst n) :
    (sgetFootprint dst n s).firstError s.params.lmemSize = none := by
  have h1 := h.left
  have h2 := h.cursors
  rw [firstError_eq_none_iff]
  refine ⟨rfl, rfl, ?_, ?_, ?_, ?_⟩
  · rw [badRange_eq_false_iff]
    have := h.fits
    simpa [sgetFootprint, bytesOperand, Fits, CursorsSane] using ⟨this, h2⟩
  · rw [badAlign_eq_false_iff]
    simp [sgetFootprint, bytesOperand]
  · simp only [sgetFootprint]
    rw [if_neg (by omega)]
  · rw [badOverlap_eq_false_iff]
    have := (apart_iff ⟨dst.toNat, n.toNat⟩ ⟨s.inp.toNat, n.toNat⟩).1 h.apart
    simpa [sgetFootprint, bytesOperand, Footprint.destRegions, Footprint.sourceRegions] using this

theorem firstError_zrle {s : State} {src n : Word} (h : ReadyZrle s src n) :
    (zrleFootprint src n s).firstError s.params.lmemSize = none := by
  rw [firstError_eq_none_iff]
  refine ⟨rfl, rfl, ?_, ?_, rfl, ?_⟩
  · rw [badRange_eq_false_iff]
    have := h.fits
    simpa [zrleFootprint, bytesOperand, Fits, CursorsSane] using ⟨this, h.cursors⟩
  · rw [badAlign_eq_false_iff]
    simp [zrleFootprint, bytesOperand]
  · rw [badOverlap_eq_false_iff]
    have := (apart_iff ⟨s.outp.toNat, s.outEnd.toNat - s.outp.toNat⟩
      ⟨src.toNat, n.toNat⟩).1 h.apart.symm
    simpa [zrleFootprint, streamRegion, bytesOperand, Footprint.destRegions,
      Footprint.sourceRegions] using this

theorem firstError_zrld {s : State} {dst n : Word} (h : ReadyZrld s dst n) :
    (zrldFootprint dst n s).firstError s.params.lmemSize = none := by
  rw [firstError_eq_none_iff]
  refine ⟨rfl, rfl, ?_, ?_, rfl, ?_⟩
  · rw [badRange_eq_false_iff]
    have := h.fits
    simpa [zrldFootprint, bytesOperand, Fits, CursorsSane] using ⟨this, h.cursors⟩
  · rw [badAlign_eq_false_iff]
    simp [zrldFootprint, bytesOperand]
  · rw [badOverlap_eq_false_iff]
    have := (apart_iff ⟨dst.toNat, n.toNat⟩ ⟨s.inp.toNat, s.inEnd.toNat - s.inp.toNat⟩).1 h.apart
    simpa [zrldFootprint, streamRegion, bytesOperand, Footprint.destRegions,
      Footprint.sourceRegions] using this

theorem firstError_cscf {s : State} {src y cb cr d : Word} (h : ReadyCscf s src y cb cr d) :
    (cscfFootprint src y cb cr d).firstError s.params.lmemSize = none := by
  obtain ⟨hd, ⟨hs, hp⟩, ha⟩ := h
  simp only [List.mem_cons, List.not_mem_nil, or_false, forall_eq_or_imp, forall_eq] at hp
  simp only [List.pairwise_cons, List.mem_cons, List.not_mem_nil, or_false, forall_eq_or_imp,
    forall_eq, List.Pairwise.nil, and_true] at ha
  obtain ⟨⟨y1, y2, y3⟩, ⟨b1, b2, b3⟩, r1, r2, r3⟩ := hp
  rw [firstError_eq_none_iff]
  refine ⟨badDims_of_legal hd rfl, rfl, ?_, ?_, rfl, ?_⟩
  · rw [badRange_eq_false_iff]
    simp only [Fits] at hs y1 b1 r1
    simpa [cscfFootprint, raster, rplane] using ⟨hs, y1, b1, r1⟩
  · rw [badAlign_eq_false_iff]
    simp only [Mult8] at y2 b2 r2
    simpa [cscfFootprint, raster, rplane] using ⟨y2, b2, r2⟩
  · rw [badOverlap_eq_false_iff]
    simp only [cscfFootprint, raster, rplane, Footprint.destRegions, Footprint.sourceRegions]
    simp only [List.map_cons, List.map_nil, List.append_nil, List.mem_cons, List.not_mem_nil,
      or_false, forall_eq_or_imp, forall_eq, List.pairwise_cons, List.Pairwise.nil, and_true,
      ← apart_iff, false_implies, implies_true]
    exact ⟨⟨y3, b3, r3⟩, ⟨ha.1.1, ha.1.2⟩, ha.2.1⟩

theorem firstError_csci {s : State} {y cb cr dst d : Word} (h : ReadyCsci s y cb cr dst d) :
    (csciFootprint y cb cr dst d).firstError s.params.lmemSize = none := by
  obtain ⟨hd, hs, hp⟩ := h
  simp only [List.mem_cons, List.not_mem_nil, or_false, forall_eq_or_imp, forall_eq] at hp
  obtain ⟨⟨y1, y2, y3⟩, ⟨b1, b2, b3⟩, r1, r2, r3⟩ := hp
  rw [firstError_eq_none_iff]
  refine ⟨badDims_of_legal hd rfl, rfl, ?_, ?_, rfl, ?_⟩
  · rw [badRange_eq_false_iff]
    simp only [Fits] at hs y1 b1 r1
    simpa [csciFootprint, raster, rplane] using ⟨y1, b1, r1, hs⟩
  · rw [badAlign_eq_false_iff]
    simp only [Mult8] at y2 b2 r2
    simpa [csciFootprint, raster, rplane] using ⟨y2, b2, r2⟩
  · rw [badOverlap_eq_false_iff]
    simp only [csciFootprint, raster, rplane, Footprint.destRegions, Footprint.sourceRegions]
    simp only [List.map_cons, List.map_nil, List.append_nil, List.mem_cons, List.not_mem_nil,
      or_false, forall_eq_or_imp, forall_eq, List.pairwise_cons, List.Pairwise.nil, and_true,
      ← apart_iff, false_implies, implies_true]
    exact ⟨y3, b3, r3⟩

theorem firstError_me {s : State} {ref tgt vec res d radius : Word}
    (h : ReadyMe s ref tgt vec res d radius) :
    (meFootprint ref tgt vec res d radius).firstError s.params.lmemSize = none := by
  obtain ⟨hd, hr, ⟨hs, hp⟩, ha, hb⟩ := h
  simp only [List.mem_cons, List.not_mem_nil, or_false, forall_eq_or_imp, forall_eq] at hp ha hb
  obtain ⟨⟨y1, y2⟩, ⟨b1, b2⟩, r1, r2⟩ := hp
  rw [firstError_eq_none_iff]
  refine ⟨badDims_of_legal hd rfl, by simpa [meFootprint] using hr, ?_, ?_, rfl, ?_⟩
  · rw [badRange_eq_false_iff]
    simp only [Fits] at hs y1 b1 r1
    simpa [meFootprint, vecList, rplane] using ⟨y1, b1, hs, r1⟩
  · rw [badAlign_eq_false_iff]
    simp only [Mult8] at y2 b2 r2
    simpa [meFootprint, vecList, rplane] using ⟨y2, b2, r2⟩
  · rw [badOverlap_eq_false_iff]
    simp only [meFootprint, vecList, rplane, Footprint.destRegions, Footprint.sourceRegions]
    simp only [List.map_cons, List.map_nil, List.append_nil, List.mem_cons, List.not_mem_nil,
      or_false, forall_eq_or_imp, forall_eq, List.pairwise_cons, List.Pairwise.nil, and_true,
      ← apart_iff, false_implies, implies_true]
    exact ⟨⟨⟨ha.1, ha.2.1⟩, hb⟩, ha.2.2⟩

theorem firstError_compensate {s : State} {c : Bool} {base ref vec dst d : Word}
    (h : ReadyCompensate s c base ref vec dst d) :
    (compensateFootprint c base ref vec dst d).firstError s.params.lmemSize = none := by
  obtain ⟨hd, ⟨hs, hp⟩, ha, hb⟩ := h
  simp only [List.mem_cons, List.not_mem_nil, or_false, forall_eq_or_imp, forall_eq] at hp hb
  obtain ⟨⟨y1, y2⟩, ⟨b1, b2⟩, r1, r2⟩ := hp
  rw [firstError_eq_none_iff]
  refine ⟨badDims_of_legal hd rfl, rfl, ?_, ?_, rfl, ?_⟩
  · rw [badRange_eq_false_iff]
    simp only [Fits] at hs y1 b1 r1
    simpa [compensateFootprint, vecList, rplane] using ⟨y1, b1, hs, r1⟩
  · rw [badAlign_eq_false_iff]
    simp only [Mult8] at y2 b2 r2
    simpa [compensateFootprint, vecList, rplane] using ⟨y2, b2, r2⟩
  · rw [badOverlap_eq_false_iff]
    simp only [compensateFootprint, vecList, rplane, Footprint.destRegions, Footprint.sourceRegions]
    simp only [List.map_cons, List.map_nil, List.append_nil, List.mem_cons, List.not_mem_nil,
      or_false, forall_eq_or_imp, forall_eq, List.pairwise_cons, List.Pairwise.nil, and_true,
      ← apart_iff, false_implies, implies_true]
    exact ⟨hb.1, hb.2, ha⟩

end Sys2Proof.Machine
end

