-- ==== Sys2Proof/Laws/Regions.lean ====
section
/-! SUPPORT. The footprint a command hands to `runCommand` has the regions, the DIMS operand, the cursors
and the limits of the table written out in Safety.lean (30_encoding.md R306). -/

namespace Sys2Proof.Machine

/-- A named region as an operand of a footprint. -/
def Named.operand (p : Named) : Operand := ⟨p.region, p.kind.real⟩

theorem footprintOf_sources (i : Instr) (s : State) :
    (footprintOf i s).sources = (namedSources i).map Named.operand := by
  cases i <;> rfl

theorem footprintOf_dests (i : Instr) (s : State) :
    (footprintOf i s).dests = (namedDests i).map Named.operand := by
  cases i <;> rfl

theorem footprintOf_dims (i : Instr) (s : State) : (footprintOf i s).dims = dimsOperand i := by
  cases i <;> rfl

theorem footprintOf_cursors (i : Instr) (s : State) : (footprintOf i s).cursors = cursorsOf i s := by
  cases i <;> rfl

theorem footprintOf_streamSources (i : Instr) (s : State) :
    (footprintOf i s).streamSources = streamRead i s := by
  cases i <;> rfl

theorem footprintOf_streamDests (i : Instr) (s : State) :
    (footprintOf i s).streamDests = streamWritten i s := by
  cases i <;> rfl

theorem footprintOf_sourceRegions (i : Instr) (s : State) :
    (footprintOf i s).sourceRegions = sourcesOf i s := by
  rw [Footprint.sourceRegions, footprintOf_sources, footprintOf_streamSources, List.map_map, sourcesOf]
  rfl

theorem footprintOf_destRegions (i : Instr) (s : State) :
    (footprintOf i s).destRegions = destsOf i s := by
  rw [Footprint.destRegions, footprintOf_dests, footprintOf_streamDests, List.map_map, destsOf]
  rfl

theorem footprintOf_operands (i : Instr) (s : State) :
    (footprintOf i s).sources ++ (footprintOf i s).dests =
      (namedSources i ++ namedDests i).map Named.operand := by
  rw [footprintOf_sources, footprintOf_dests, List.map_append]

/-- Argument legality (R1303 step 4): SETIN and SETOUT with addr > end, ME with radius > 128. -/
theorem footprintOf_argOk_eq_false (i : Instr) (s : State) :
    (footprintOf i s).argOk = false ↔
      (∃ addr stop, (i = .setin addr stop ∨ i = .setout addr stop) ∧ stop.toNat < addr.toNat) ∨
      ∃ ref tgt vec res d radius, i = .me ref tgt vec res d radius ∧ 128 < radius.toNat := by
  cases i <;> simp [footprintOf, setFootprint, sputFootprint, sgetFootprint, cscfFootprint,
    csciFootprint, subsFootprint, upsFootprint, transformFootprint, quantFootprint, dequantFootprint,
    qplaneFootprint, dqplaneFootprint, zigzagFootprint, serFootprint, deserFootprint, zrleFootprint,
    zrldFootprint, meFootprint, compensateFootprint]

/-- The end SETIN and SETOUT check against LMEM_SIZE (40_control.md R412, R413). -/
theorem footprintOf_stop (i : Instr) (s : State) (e : Word) :
    (footprintOf i s).stop = some e ↔ ∃ addr, i = .setin addr e ∨ i = .setout addr e := by
  cases i <;> simp [footprintOf, setFootprint, sputFootprint, sgetFootprint, cscfFootprint,
    csciFootprint, subsFootprint, upsFootprint, transformFootprint, quantFootprint, dequantFootprint,
    qplaneFootprint, dqplaneFootprint, zigzagFootprint, serFootprint, deserFootprint, zrleFootprint,
    zrldFootprint, meFootprint, compensateFootprint]

/-- The stream limit (R1303 step 7): SPUT past OUT_END, SGET past IN_END. -/
theorem footprintOf_limit (i : Instr) (s : State) (e : ErrCode) :
    (footprintOf i s).limit = some e ↔
      (∃ src n, i = .sput src n ∧ s.outEnd.toNat < s.outp.toNat + n.toNat ∧ e = .overflow) ∨
      ∃ dst n, i = .sget dst n ∧ s.inEnd.toNat < s.inp.toNat + n.toNat ∧ e = .malformed := by
  cases i <;> simp [footprintOf, setFootprint, sputFootprint, sgetFootprint, cscfFootprint,
    csciFootprint, subsFootprint, upsFootprint, transformFootprint, quantFootprint, dequantFootprint,
    qplaneFootprint, dqplaneFootprint, zigzagFootprint, serFootprint, deserFootprint, zrleFootprint,
    zrldFootprint, meFootprint, compensateFootprint, eq_comm]

end Sys2Proof.Machine
end

