-- ==== Sys2Proof/Laws/Results.lean ====
section
/-! SUPPORT. What a command's next state reads as: completions and error halts in the terms of
Safety.lean, planes and byte arrays just written, and the rules' loops. Cite these for a state that
`complete`, `errorHalt` or `unspecify` gives: unfolding those over a concrete command is slow. -/

namespace Sys2Proof.Machine

/-! ## Completions and error halts -/

@[simp] theorem readByte_complete (s : State) (a : Nat) : readByte (complete s) a = readByte s a := rfl

@[simp] theorem readF64_complete (s : State) (a : Nat) : readF64 (complete s) a = readF64 s a := rfl

@[simp] theorem readByte_errorHalt (e : ErrCode) (s : State) (a : Nat) :
    readByte (errorHalt e s) a = readByte s a := rfl

theorem completed_of_frame {f : Footprint} {s t : State} (h : BodyFrame f s t) :
    Completed s (complete t) := by
  rw [h.fields]
  exact ⟨⟨rfl, rfl, rfl, rfl, rfl, rfl, rfl, rfl, rfl⟩, ⟨rfl, rfl, rfl, rfl⟩, ⟨rfl, rfl⟩, rfl, rfl⟩

/-- A command whose body changed LMEM only. -/
theorem completedQuietly_lmem (s : State) (m : Memory) :
    CompletedQuietly s (complete { s with lmem := m }) :=
  ⟨⟨⟨rfl, rfl, rfl, rfl, rfl, rfl, rfl, rfl, rfl⟩, ⟨rfl, rfl, rfl, rfl⟩, ⟨rfl, rfl⟩, rfl, rfl⟩,
    ⟨rfl, rfl⟩, ⟨rfl, rfl⟩⟩

theorem errorHalted_self (e : ErrCode) (s : State) : ErrorHalted e s (errorHalt e s) :=
  ⟨⟨rfl, rfl, rfl, rfl, rfl, rfl, rfl, rfl, rfl⟩, ⟨rfl, rfl⟩, ⟨rfl, rfl⟩, rfl, rfl, rfl, rfl, rfl, rfl⟩

theorem errorHalted_unspecify (e : ErrCode) (s : State) (rs : List Region) :
    ErrorHalted e s (errorHalt e (unspecify s rs)) := by
  rw [unspecify_eq]
  exact ⟨⟨rfl, rfl, rfl, rfl, rfl, rfl, rfl, rfl, rfl⟩, ⟨rfl, rfl⟩, ⟨rfl, rfl⟩, rfl, rfl, rfl, rfl,
    rfl, rfl⟩

theorem sameBytesOutside_unspecify {e : ErrCode} {s : State} {f : Footprint} {base len : Nat}
    (h : f.destRegions = [⟨base, len⟩]) :
    SameBytesOutside base len s (errorHalt e (unspecify s f.destRegions)) := by
  rw [h]
  intro a ha
  rw [readByte_errorHalt]
  refine readByte_unspecify_outside s _ a ?_
  intro r hr
  rw [List.mem_singleton] at hr
  subst hr
  rw [← Bool.not_eq_true, contains_iff]
  simp only
  omega

/-! ## Data just written -/

theorem sameBytesOutside_writeF64s {s : State} {dst n : Nat} {xs : List F64} (h : 8 * xs.length = n) :
    SameBytesOutside dst n s (complete (writeF64s s dst xs)) := fun a ha =>
  readByte_writeF64s_outside s dst xs a (by omega)

theorem sameBytesOutside_writeBytes {s : State} {dst n : Nat} {bs : List Byte} (h : bs.length = n) :
    SameBytesOutside dst n s (complete (writeBytes s dst bs)) := fun a ha =>
  readByte_writeBytes_outside s dst bs a (by omega)

/-- A datum apart from those written reads as before. -/
theorem readF64_writeF64s_apart {s : State} {b a n : Nat} {xs : List F64} (hn : 8 * xs.length = n)
    (h : Apart b n a 8) : readF64 (writeF64s s b xs) a = readF64 s a := by
  apply readF64_congr
  intro k h1 h2
  apply readByte_writeF64s_outside
  by_contra hc
  exact h k (by omega) (by omega) h1 h2

theorem readF64_writeF64s_grid {s : State} {dst rows cols : Nat} (g : Nat → Nat → F64) {r c : Nat}
    (hr : r < rows) (hc : c < cols) :
    readF64 (writeF64s s dst (grid rows cols g)) (dst + 8 * (r * cols + c)) = g r c := by
  have hl : r * cols + c < (grid rows cols g).length := by
    rw [length_grid]
    exact grid_index_lt hr hc
  rw [readF64_writeF64s s dst (grid rows cols g) _ hl, getElem_grid rows cols g r c hr hc hl]

theorem readByte_writeBytes_grid {s : State} {dst rows cols : Nat} (g : Nat → Nat → Byte) {r c : Nat}
    (hr : r < rows) (hc : c < cols) :
    readByte (writeBytes s dst (grid rows cols g)) (dst + (r * cols + c)) = g r c := by
  have hl : r * cols + c < (grid rows cols g).length := by
    rw [length_grid]
    exact grid_index_lt hr hc
  rw [readByte_writeBytes_inside s dst (grid rows cols g) _ hl, getElem_grid rows cols g r c hr hc hl]

theorem getD_map_range {α : Type} (n k : Nat) (hk : k < n) (f : Nat → α) (d : α) :
    ((List.range' 0 n).map f).getD k d = f k := by
  simp [List.getD, hk]

theorem getD_readBlock (s : State) (a k : Nat) (hk : k < 64) (d : F64) :
    (readBlock s a).getD k d = readF64 s (a + 8 * k) := getD_map_range 64 k hk _ d

/-- An i8 that fits in a byte reads back as itself. -/
theorem sext8_byteOfInt (n : Int) (h1 : -128 ≤ n) (h2 : n ≤ 127) : sext8 (byteOfInt n) = n := by
  unfold sext8 byteOfInt
  rw [BitVec.toInt_ofInt]
  simp only [Int.bmod]
  omega

/-! ## The rules' loops -/

theorem foldl_grid {α : Type} (n m : Nat) (f : Nat → Nat → α) (op : F64 → α → F64) (z : F64) :
    (grid n m f).foldl op z =
      (List.range n).foldl (fun s x => (List.range m).foldl (fun s y => op s (f x y)) s) z := by
  simp only [grid, List.foldl_flatMap, List.foldl_map, List.range_eq_range']

theorem fsum_grid (n m : Nat) (f : Nat → Nat → F64) : fsum (grid n m f) = loopSum n m f :=
  foldl_grid n m f fadd f64Zero

theorem loopSum_congr {n m : Nat} {f g : Nat → Nat → F64}
    (h : ∀ x < n, ∀ y < m, f x y = g x y) : loopSum n m f = loopSum n m g := by
  rw [← fsum_grid, ← fsum_grid, grid_congr h]

/-! ## The host's side -/

section host
variable (d e : Bool) (held : List HostReq) (inputs : List HostMove) (replies : List Reply) (s : State)

@[simp] theorem params_withHostSide : (withHostSide d e held inputs replies s).params = s.params := rfl

theorem readByte_withHostSide : readByte (withHostSide d e held inputs replies s) = readByte s := rfl

theorem writeBytes_withHostSide (b : Nat) (bs : List Byte) :
    writeBytes (withHostSide d e held inputs replies s) b bs =
      withHostSide d e held inputs replies (writeBytes s b bs) := rfl

theorem writeF64s_withHostSide (b : Nat) (xs : List F64) :
    writeF64s (withHostSide d e held inputs replies s) b xs =
      withHostSide d e held inputs replies (writeF64s s b xs) := rfl

theorem unspecify_withHostSide (rs : List Region) :
    unspecify (withHostSide d e held inputs replies s) rs =
      withHostSide d e held inputs replies (unspecify s rs) := by
  induction rs generalizing s with
  | nil => rfl
  | cons r rest ih => exact ih (unspecifyRegion s r)

end host

end Sys2Proof.Machine
end

