-- ==== Sys2Proof/Laws/Search.lean ====
section
/-! SUPPORT. The model's motion search is the loop of 47_motion.md R1106 as Safety.lean writes it out. -/

namespace Sys2Proof.Machine

theorem sad_eq_sadRule (tgt ref : Nat → Nat → F64) (m : Macroblock) (dx dy : Int) :
    sad tgt ref m dx dy = sadRule tgt ref m.r0 m.c0 m.bh m.bw dx dy :=
  fsum_grid m.bh m.bw _

theorem candidateValid_iff (h w : Nat) (m : Macroblock) (dx dy : Int) :
    candidateValid h w m dx dy = true ↔ ValidRule h w m.r0 m.c0 m.bh m.bw dx dy := by
  simp only [candidateValid, ValidRule, Bool.and_eq_true, decide_eq_true_eq]
  tauto

/-- The best candidate of the model, as the triple of `roundRule`. -/
def Best.triple (b : Best) : F64 × Int × Int := (b.score, b.dx, b.dy)

/-- A candidate replaces the best exactly when it is valid and scores strictly lower. -/
theorem tryCandidate_triple (h w : Nat) (tgt ref : Nat → Nat → F64) (m : Macroblock) (b : Best)
    (dx dy : Int) :
    (tryCandidate h w tgt ref m b dx dy).triple =
      if ValidRule h w m.r0 m.c0 m.bh m.bw dx dy ∧
          flt (sadRule tgt ref m.r0 m.c0 m.bh m.bw dx dy) b.score = true
      then (sadRule tgt ref m.r0 m.c0 m.bh m.bw dx dy, dx, dy) else b.triple := by
  unfold tryCandidate
  rw [← sad_eq_sadRule]
  by_cases hv : candidateValid h w m dx dy = true
  · have hr := (candidateValid_iff h w m dx dy).1 hv
    by_cases hf : flt (sad tgt ref m dx dy) b.score = true
    · simp only [if_pos hv, if_pos hf, if_pos (And.intro hr hf), Best.triple]
    · simp only [if_pos hv, if_neg hf, if_neg (fun c : _ ∧ _ => hf c.2)]
  · rw [if_neg hv, if_neg (fun c => hv ((candidateValid_iff h w m dx dy).2 c.1))]

theorem searchRound_eq_roundRule (h w : Nat) (tgt ref : Nat → Nat → F64) (m : Macroblock) (s : Nat)
    (center : Int × Int) :
    searchRound h w tgt ref m s center =
      roundRule h w tgt ref m.r0 m.c0 m.bh m.bw s center.1 center.2 := by
  have fold : ∀ (l : List (Int × Int)) (b : Best),
      (l.foldl (fun best o =>
        tryCandidate h w tgt ref m best (center.1 + o.2 * s) (center.2 + o.1 * s)) b).triple =
      l.foldl (fun (best : F64 × Int × Int) (oy, ox) =>
        let dx := center.1 + ox * s
        let dy := center.2 + oy * s
        let d := sadRule tgt ref m.r0 m.c0 m.bh m.bw dx dy
        if ValidRule h w m.r0 m.c0 m.bh m.bw dx dy ∧ flt d best.1 = true then (d, dx, dy) else best)
        b.triple := by
    intro l
    induction l with
    | nil => intro b; rfl
    | cons o rest ih =>
      intro b
      rw [List.foldl_cons, ih, List.foldl_cons, tryCandidate_triple]
      rfl
  unfold roundRule
  rw [← sad_eq_sadRule]
  exact congrArg Prod.snd (fold neighbours ⟨center.1, center.2, sad tgt ref m center.1 center.2⟩)

/-- The loop runs one round for each step of the list. -/
theorem loopRule_eq_foldl (h w : Nat) (tgt ref : Nat → Nat → F64) (m : Macroblock) (rounds s : Nat)
    (hs : 0 < s) (center : Int × Int) :
    loopRule h w tgt ref m.r0 m.c0 m.bh m.bw rounds s center =
      (searchSteps rounds s).foldl (fun c step => searchRound h w tgt ref m step c) center := by
  induction rounds generalizing s center with
  | zero => rfl
  | succ rounds ih =>
    unfold loopRule searchSteps
    by_cases h1 : s = 1
    · rw [if_pos h1, if_pos (by omega)]
      exact (searchRound_eq_roundRule h w tgt ref m s center).symm
    · rw [if_neg h1, if_neg (by omega), List.foldl_cons, searchRound_eq_roundRule]
      exact ih (ceilDiv s 2) (by unfold ceilDiv; omega) _

/-- Seven rounds are enough for a first step of at most 64 (R1104). -/
theorem searchSteps_seven : ∀ s, s ≤ 64 → searchSteps s s = searchSteps 7 s ∨ s = 0 := by decide

/-- The model's search is the rule's, for every radius R1104 allows. -/
theorem searchVector_eq_searchRule (h w : Nat) (tgt ref : Nat → Nat → F64) (mr mc radius : Nat)
    (hr : radius ≤ 128) :
    searchVector h w tgt ref (macroblock h w mr mc) radius = searchRule h w tgt ref mr mc radius := by
  unfold searchVector searchRule
  by_cases h0 : radius = 0
  · rw [if_pos h0, if_pos h0]
  · rw [if_neg h0, if_neg h0]
    have hs : 0 < ceilDiv radius 2 ∧ ceilDiv radius 2 ≤ 64 := by unfold ceilDiv; omega
    rw [(searchSteps_seven _ hs.2).resolve_right (by omega)]
    exact (loopRule_eq_foldl h w tgt ref (macroblock h w mr mc) 7 _ hs.1 (0, 0)).symm

end Sys2Proof.Machine
end

