-- ==== Sys2Proof/Laws/Step.lean ====
section
/-! SUPPORT. What one step can do, said once. -/

namespace Sys2Proof.Machine

/-- Engine step, idle. -/
theorem engineStep_idle {s : State} (h : s.busy = false) : engineStep s = .next s := by
  simp [engineStep, h]

/-- Engine step, busy, where the fetch passes LMEM_SIZE (40_control.md R401). -/
theorem engineStep_fetchError {s : State} (h : s.busy = true)
    (hf : s.params.lmemSize < s.cp.toNat + 32) : engineStep s = .next (errorHalt .range s) := by
  have : fetch s = none := by
    unfold fetch
    rw [if_neg (by omega)]
  simp [engineStep, h, this]

/-- Engine step, busy, where a descriptor is fetched. -/
theorem engineStep_fetched {s : State} (h : s.busy = true)
    (hf : s.cp.toNat + 32 ≤ s.params.lmemSize) :
    engineStep s =
      match decode (Descriptor.ofBytes (readBytes s s.cp.toNat 32)) with
      | .error e => .next (errorHalt (errCodeOfDecode e) s)
      | .ok i => exec i s := by
  have : fetch s = some (Descriptor.ofBytes (readBytes s s.cp.toNat 32)) := by
    unfold fetch
    rw [if_pos hf]
  (simp only [engineStep, h, this, ↓reduceIte]) <;> rfl

/-- What the engine's step can do: nothing, an error halt at the fetch or the decoding, or the
decoded command. -/
theorem engineStep_cases (s : State) :
    (s.busy = false ∧ engineStep s = .next s) ∨
    (s.busy = true ∧ ∃ e, engineStep s = .next (errorHalt e s) ∧ e ≠ .none) ∨
    (s.busy = true ∧ s.cp.toNat + 32 ≤ s.params.lmemSize ∧ ∃ i, engineStep s = exec i s) := by
  cases hb : s.busy with
  | false => exact .inl ⟨rfl, engineStep_idle hb⟩
  | true =>
    refine .inr ?_
    by_cases hf : s.cp.toNat + 32 ≤ s.params.lmemSize
    · have h := engineStep_fetched hb hf
      cases hd : decode (Descriptor.ofBytes (readBytes s s.cp.toNat 32)) with
      | error e =>
        rw [hd] at h
        refine .inl ⟨rfl, _, h, ?_⟩
        cases e <;> simp [errCodeOfDecode]
      | ok i =>
        rw [hd] at h
        exact .inr ⟨rfl, hf, i, h⟩
    · exact .inl ⟨rfl, .range, engineStep_fetchError hb (by omega), by simp⟩

/-- What a step can do: the oldest held access of an idle machine, the engine's step, or a move of
the host. -/
theorem step_cases (s : State) :
    (∃ r rest, s.busy = false ∧ s.held = r :: rest ∧
      step s = .next (lmemAccess r { s with held := rest })) ∨
    ((s.busy = true ∨ s.held = []) ∧
      ((s.inputs = [] ∧ step s = engineStep s) ∨
       (∃ rest, s.inputs = .wait :: rest ∧ step s = engineStep { s with inputs := rest }) ∨
       (∃ m rest, s.inputs = m :: rest ∧ m ≠ .wait ∧
          step s = .next (hostMove m { s with inputs := rest })))) := by
  unfold step
  split
  · rename_i r rest hb hh
    exact .inl ⟨r, rest, hb, hh, rfl⟩
  · rename_i hn
    refine .inr ⟨?_, ?_⟩
    · cases hb : s.busy with
      | true => exact .inl rfl
      | false =>
        cases hh : s.held with
        | nil => exact .inr rfl
        | cons r rest => exact absurd hh (hn r rest hb)
    · split
      · rename_i hi
        exact .inl ⟨hi, rfl⟩
      · rename_i rest hi
        exact .inr (.inl ⟨rest, hi, rfl⟩)
      · rename_i m rest hm hi
        exact .inr (.inr ⟨m, rest, hi, hm, rfl⟩)

end Sys2Proof.Machine
end

