-- ==== Sys2Proof/Laws/Zero.lean ====
section
/-! SUPPORT. Arithmetic on zeros, and the transform of a block of zeros (43_transform.md R705). -/

namespace Sys2Proof.Machine

/-- Neither a NaN nor an infinity. -/
def f64Finite (x : F64) : Bool := !f64IsNaN x && !f64IsInf x

theorem f64Units_zero {x : F64} (h : f64IsZero x = true) : f64Units x = 0 := by
  simp only [f64IsZero, Bool.and_eq_true, beq_iff_eq] at h
  simp [f64Units, h.1, h.2]

theorem f64IsNaN_zero {x : F64} (h : f64IsZero x = true) : f64IsNaN x = false := by
  simp only [f64IsZero, Bool.and_eq_true, beq_iff_eq] at h
  simp [f64IsNaN, h.1]

theorem f64IsInf_zero {x : F64} (h : f64IsZero x = true) : f64IsInf x = false := by
  simp only [f64IsZero, Bool.and_eq_true, beq_iff_eq] at h
  simp [f64IsInf, h.1]

/-- There are two zeros. -/
theorem eq_f64Pack_of_zero {x : F64} (h : f64IsZero x = true) : x = f64Pack (f64Sign x) 0 := by
  simp only [f64IsZero, Bool.and_eq_true, beq_iff_eq, f64Exponent, f64Fraction] at h
  obtain ⟨h1, h2⟩ := h
  simp only [BitVec.extractLsb'_toNat, Nat.shiftRight_eq_div_pow] at h1 h2
  apply BitVec.eq_of_toNat_eq
  have := x.isLt
  unfold f64Sign
  rw [BitVec.msb_eq_decide]
  unfold f64Pack
  rw [BitVec.toNat_ofNat]
  by_cases hx : 2 ^ 63 ≤ x.toNat
  · have hd : decide (2 ^ (64 - 1) ≤ x.toNat) = true := by simpa using hx
    rw [hd]
    simp only [if_true]
    norm_num at *
    omega
  · have hd : decide (2 ^ (64 - 1) ≤ x.toNat) = false := by simpa using hx
    rw [hd]
    simp only [Bool.false_eq_true, if_false]
    norm_num at *
    omega

theorem f64IsZero_pack (b : Bool) : f64IsZero (f64Pack b 0) = true := by cases b <;> decide

theorem f64Round_zero (b : Bool) (d : Nat) : f64Round b 0 d = f64Pack b 0 := by
  simp [f64Round, roundMagnitude, nearestEven]

theorem fmul_zero_left {a b : F64} (ha : f64IsZero a = true) (hb : f64Finite b = true) :
    f64IsZero (fmul a b) = true := by
  simp only [f64Finite, Bool.and_eq_true, Bool.not_eq_true'] at hb
  have : fmul a b = f64Pack (f64Sign a != f64Sign b) 0 := by
    simp [fmul, f64IsNaN_zero ha, f64IsInf_zero ha, hb.1, hb.2, f64Units_zero ha, f64Round_zero]
  rw [this]
  exact f64IsZero_pack _

theorem fmul_zero_right {a b : F64} (ha : f64Finite a = true) (hb : f64IsZero b = true) :
    f64IsZero (fmul a b) = true := by
  simp only [f64Finite, Bool.and_eq_true, Bool.not_eq_true'] at ha
  have : fmul a b = f64Pack (f64Sign a != f64Sign b) 0 := by
    simp [fmul, f64IsNaN_zero hb, f64IsInf_zero hb, ha.1, ha.2, f64Units_zero hb, f64Round_zero]
  rw [this]
  exact f64IsZero_pack _

/-- +0.0 plus a zero of either sign is +0.0. -/
theorem fadd_zero {z : F64} (h : f64IsZero z = true) : fadd f64Zero z = f64Zero := by
  rw [eq_f64Pack_of_zero h]
  cases f64Sign z <;> decide

theorem loopSum_zero (n m : Nat) (f : Nat → Nat → F64)
    (h : ∀ x < n, ∀ y < m, f64IsZero (f x y) = true) : loopSum n m f = f64Zero := by
  have hfold : ∀ l : List F64, (∀ z ∈ l, f64IsZero z = true) → l.foldl fadd f64Zero = f64Zero := by
    intro l
    induction l with
    | nil => intro _; rfl
    | cons z rest ih =>
      intro hl
      rw [List.foldl_cons, fadd_zero (hl z (by simp))]
      exact ih fun y hy => hl y (by simp [hy])
  rw [← fsum_grid]
  refine hfold _ ?_
  intro z hz
  obtain ⟨x, hx, y, hy, rfl⟩ := mem_grid.1 hz
  exact h x hx y hy

theorem cosEntry_finite : ∀ x < 8, ∀ u < 8, f64Finite (cosEntry x u) = true := by decide +kernel

theorem cScale_mul_finite : ∀ u < 8, ∀ v < 8, f64Finite (fmul (cScale u) (cScale v)) = true := by
  decide +kernel

theorem scale_zero :
    ∀ u < 8, ∀ v < 8, fmul (fmul (fmul quarter (cScale u)) (cScale v)) f64Zero = f64Zero := by
  decide +kernel

/-- Every output of FDCT of zeros is +0.0. -/
theorem fdctRule_zero {f : Nat → Nat → F64} (h : ∀ x < 8, ∀ y < 8, f64IsZero (f x y) = true)
    {u v : Nat} (hu : u < 8) (hv : v < 8) : fdctRule f u v = f64Zero := by
  unfold fdctRule
  rw [loopSum_zero, scale_zero u hu v hv]
  exact fun x hx y hy => fmul_zero_left (fmul_zero_left (h x hx y hy) (cosEntry_finite x hx u hu))
    (cosEntry_finite y hy v hv)

end Sys2Proof.Machine
end

