-- ==== Sys2Proof/Machine/HostSequences.lean ====
section
/-! DEFINITION. What host software does with the commands (48_host_sequences.md): the command lists of
the frame codecs, the session, the containers, the host's port actions, and the frames of a sequence one
after another. The hardware has no state or command for them (00_scope.md R7); no step uses this file.
Log 17. -/

namespace Sys2Proof.Machine

/-! ## Port actions (70_reset_and_hazards.md R1403, R1404; 30_encoding.md R311) -/

/-- `host.wr32 off, v`. -/
def hostWrite32 (off : BitVec 25) (v : Word) : HostMove :=
  .access { we := true, addr := off, size := 2#2, wdata := v }

/-- A 4-byte read at a host offset. -/
def hostRead32 (off : BitVec 25) : HostMove :=
  .access { we := false, addr := off, size := 2#2, wdata := 0 }

/-- `host.start`. -/
def hostStart : HostMove := hostWrite32 0x004 1

/-- A soft reset by the host. -/
def hostSoftReset : HostMove := hostWrite32 0x004 2

/-- The host stores a byte of LMEM. -/
def hostPoke (a : Nat) (b : Byte) : HostMove :=
  .access { we := true, addr := BitVec.ofNat 25 (windowBase + a), size := 0#2, wdata := b.zeroExtend 32 }

/-- The host stores bytes from an address upwards, as many as are given. That nothing checks them against
the buffer or the window, so that bytes past a buffer fall on what lies there, is the model's choice,
log 31. -/
def hostPokeBytes (base : Nat) (bytes : List Byte) : List HostMove :=
  (List.range' 0 bytes.length).map fun k => hostPoke (base + k) (bytes.getD k 0)

/-- The host stores a command list at an address (30_encoding.md R310, R311). -/
def hostPokeList (base : Nat) (is : List Instr) : List HostMove :=
  hostPokeBytes base (is.flatMap encodeBytes)

/-- Boot, R1403: write the list, then CLP, then IRQ_EN, then START. -/
def bootMoves (clp irqEn : Word) (is : List Instr) : List HostMove :=
  hostPokeList clp.toNat is ++ [hostWrite32 0x010 clp, hostWrite32 0x00C irqEn, hostStart]

/-- Recovery after an error (60_exceptions.md R1306): read ERR_CODE, CP and CMD_COUNT, clear ERR,
and start again at the failing descriptor. -/
def recoverMoves (failed : Word) : List HostMove :=
  [hostRead32 0x018, hostRead32 0x014, hostRead32 0x01C, hostWrite32 0x008 4,
   hostWrite32 0x010 failed, hostStart]

/-! ## Sizes (R1200) -/

/-- NY: luma samples of a frame, padded. -/
def lumaCount (h w : Nat) : Nat := pad8 h * pad8 w

/-- NC: samples of each chroma channel, decimated and padded. -/
def chromaCount (h w : Nat) : Nat := pad8 (ceilDiv h 2) * pad8 (ceilDiv w 2)

/-- NV: bytes of a frame's vector list. -/
def vectorCount (h w : Nat) : Nat := 2 * ceilDiv h 8 * ceilDiv w 8

/-- A count as an operand word. Of the counts of R1200 only NY = 2^32, of a frame with h and w above 65528,
does not fit a word; that it is then written modulo 2^32 is the model's choice, log 32. -/
def countWord (n : Nat) : Word := BitVec.ofNat 32 n

/-! ## Sessions and buffers (R1206, R1210) -/

/-- Three planes: Y, Cb, Cr. -/
structure Planes where
  y  : Word
  cb : Word
  cr : Word
deriving DecidableEq, Repr

/-- The buffers of one frame's commands, as LMEM addresses: `list` holds the command list, `input` the
record to be decoded. -/
structure FrameBuffers where
  list    : Word
  input   : Word
  raster  : Word
  planes  : Planes
  fullCb  : Word
  fullCr  : Word
  quant   : Planes
  seqs    : Planes
  vec     : Word
  residual : Planes
  dequant : Planes
  out     : Word
  outStop : Word
deriving DecidableEq, Repr

/-- A codec session: the frame dimensions, the reference planes and the spare set (R1210). -/
structure Session where
  h         : BitVec 16
  w         : BitVec 16
  reference : Planes
  spare     : Planes
deriving DecidableEq, Repr

/-- The two sets of planes swapped: the spare planes, which the list wrote, become the reference
(R1206). `Session.afterList` says when. -/
def Session.replaceReference (s : Session) : Session :=
  { s with reference := s.spare, spare := s.reference }

/-- The list ended with DONE: STATUS reads 0b010 (70_reset_and_hazards.md R1405). -/
def endedWithDone (m : State) : Bool := statusWord m == 2#32

/-- The session after the list that writes its next reference, on a machine at the end of that list: the
reference is replaced only after DONE, and an error or a reset leaves it as it was (R1208). -/
def Session.afterList (s : Session) (m : State) : Session :=
  if endedWithDone m then s.replaceReference else s

/-- The session's DIMS word. -/
def Session.dims (s : Session) : Word := dimsWord s.h s.w

/-! ## Command lists -/

/-- Colour conversion and subsampling of the raster (R1203, R1206). -/
def convertList (b : FrameBuffers) (d : Word) : List Instr :=
  [.cscf b.raster b.planes.y b.fullCb b.fullCr d, .subs b.fullCb b.planes.cb d,
   .subs b.fullCr b.planes.cr d]

/-- Quantization and serialization of three planes (R1203, R1206). -/
def quantizeList (b : FrameBuffers) (p : Planes) (d : Word) : List Instr :=
  [.qplane p.y b.quant.y d, .qplaneC p.cb b.quant.cb d, .qplaneC p.cr b.quant.cr d,
   .ser b.quant.y b.seqs.y d, .serC b.quant.cb b.seqs.cb d, .serC b.quant.cr b.seqs.cr d]

/-- The three channel streams, Y, Cb, Cr (R1203). -/
def encodeList (b : FrameBuffers) (h w : Nat) : List Instr :=
  [.zrle b.seqs.y (countWord (lumaCount h w)), .zrle b.seqs.cb (countWord (chromaCount h w)),
   .zrle b.seqs.cr (countWord (chromaCount h w))]

/-- Decoding of the three channel streams into quantized planes (R1204, R1207). -/
def decodeList (b : FrameBuffers) (h w : Nat) (d : Word) : List Instr :=
  [.zrld b.seqs.y (countWord (lumaCount h w)), .zrld b.seqs.cb (countWord (chromaCount h w)),
   .zrld b.seqs.cr (countWord (chromaCount h w)),
   .deser b.seqs.y b.quant.y d, .deserC b.seqs.cb b.quant.cb d, .deserC b.seqs.cr b.quant.cr d]

/-- Dequantization of the quantized planes into `p` (R1204 to R1207). -/
def dequantizeList (b : FrameBuffers) (p : Planes) (d : Word) : List Instr :=
  [.dqplane b.quant.y p.y d, .dqplaneC b.quant.cb p.cb d, .dqplaneC b.quant.cr p.cr d]

/-- Back to a raster (R1204, R1207). -/
def rasterList (b : FrameBuffers) (p : Planes) (d : Word) : List Instr :=
  [.ups p.cb b.fullCb d, .ups p.cr b.fullCr d, .csci p.y b.fullCb b.fullCr b.raster d]

/-- Prediction added to the dequantized residual: the new reference (R1206, R1207). -/
def reconstructList (b : FrameBuffers) (s : Session) : List Instr :=
  [.padd b.dequant.y s.reference.y b.vec s.spare.y s.dims,
   .paddC b.dequant.cb s.reference.cb b.vec s.spare.cb s.dims,
   .paddC b.dequant.cr s.reference.cr b.vec s.spare.cr s.dims]

/-- I-frame compression (R1203). -/
def compressI (b : FrameBuffers) (s : Session) : List Instr :=
  convertList b s.dims ++ quantizeList b b.planes s.dims ++ [.setout b.out b.outStop] ++
    encodeList b s.h.toNat s.w.toNat ++ [.halt]

/-- The encoder's new reference after an I-frame: the dequantized planes (R1205). -/
def referenceI (b : FrameBuffers) (s : Session) : List Instr :=
  dequantizeList b s.spare s.dims ++ [.halt]

/-- I-frame decompression of the record [start, stop) (R1204); the planes are the new reference
(R1205). -/
def decompressI (b : FrameBuffers) (s : Session) (start stop : Word) : List Instr :=
  [.setin start stop] ++ decodeList b s.h.toNat s.w.toNat s.dims ++
    dequantizeList b s.spare s.dims ++ rasterList b s.spare s.dims ++ [.halt]

/-- P-frame compression with search radius `radius` (R1206). -/
def compressP (b : FrameBuffers) (s : Session) (radius : Word) : List Instr :=
  convertList b s.dims ++
    [.me s.reference.y b.planes.y b.vec b.residual.y s.dims radius,
     .psubC b.planes.cb s.reference.cb b.vec b.residual.cb s.dims,
     .psubC b.planes.cr s.reference.cr b.vec b.residual.cr s.dims] ++
    quantizeList b b.residual s.dims ++
    [.setout b.out b.outStop, .sput b.vec (countWord (vectorCount s.h.toNat s.w.toNat))] ++
    encodeList b s.h.toNat s.w.toNat ++ dequantizeList b b.dequant s.dims ++
    reconstructList b s ++ [.halt]

/-- P-frame decompression of the record [start, stop) (R1207). -/
def decompressP (b : FrameBuffers) (s : Session) (start stop : Word) : List Instr :=
  [.setin start stop, .sget b.vec (countWord (vectorCount s.h.toNat s.w.toNat))] ++
    decodeList b s.h.toNat s.w.toNat s.dims ++ dequantizeList b b.dequant s.dims ++
    reconstructList b s ++ rasterList b s.spare s.dims ++ [.halt]

/-! ## Errors (R1202, R1211) -/

/-- The source's error kinds at the host (R1202, R1211). -/
inductive HostError where
  | invalidDimensions
  | malformedStream
  | unsupportedFrameType
deriving DecidableEq, Repr

/-- Why a call failed: one of the source's errors, or an error the source does not have, a fault of the
host's list or buffers or of extreme values (R1211). -/
inductive CallError where
  | source (e : HostError)
  | host (code : ErrCode)
deriving DecidableEq, Repr

/-- What ERR_CODE stands for at the host (R1211); none for 0. -/
def callErrorOf (e : ErrCode) : Option CallError :=
  match e with
  | .none => none
  | .dims => some (.source .invalidDimensions)
  | .malformed => some (.source .malformedStream)
  | .opcode => some (.host .opcode)
  | .rsvd => some (.host .rsvd)
  | .range => some (.host .range)
  | .align => some (.host .align)
  | .overlap => some (.host .overlap)
  | .arg => some (.host .arg)
  | .overflow => some (.host .overflow)
  | .numeric => some (.host .numeric)

/-! ## Frame types (R1202, R1212) -/

/-- Frame types. -/
inductive FrameType where
  | iFrame
  | pFrame
deriving DecidableEq, Repr

/-- Frame k of a sequence is an I-frame exactly when k mod iFrameGap = 0 (R1212). That an iFrameGap of 0
makes frame 0 an I-frame and every other a P-frame is the model's choice, log 29. -/
def frameType (k gap : Nat) : FrameType := if k % gap = 0 then .iFrame else .pFrame

/-- A host tag outside the known set is refused (R1202). That the tag 0 stands for I and 1 for P is the
model's choice, log 27. -/
def frameTypeOfTag (tag : Nat) : Except HostError FrameType :=
  if tag = 0 then .ok .iFrame else if tag = 1 then .ok .pFrame else .error .unsupportedFrameType

/-! ## Containers (R1212) -/

/-- The next i32 of a container, and the bytes after it (R1212). That fewer than four bytes are a
malformed stream is the model's choice, log 24. -/
def takeI32 (bs : List Byte) : Except HostError (Int × List Byte) :=
  match bs with
  | b0 :: b1 :: b2 :: b3 :: rest => .ok ((wordOfBytes b0 b1 b2 b3).toInt, rest)
  | _ => .error .malformedStream

/-- A container dimension: 1..65535 (R1211). -/
def checkDimension (n : Int) : Except HostError (BitVec 16) :=
  if 0 < n ∧ n ≤ 65535 then .ok (BitVec.ofInt 16 n) else .error .invalidDimensions

/-- A length-prefixed record (R1212); a negative length is refused (D55). That a length past the end of
the container is a malformed stream is the model's choice, log 24. -/
def takeRecord (bs : List Byte) : Except HostError (List Byte × List Byte) := do
  let (n, rest) ← takeI32 bs
  if n < 0 ∨ rest.length < n.toNat then .error .malformedStream
  else .ok (rest.take n.toNat, rest.drop n.toNat)

/-- The still-image container: height, width, data (R1212). The dimensions are checked before the length
is read (log 26), and bytes after the record are ignored (log 25): both are the model's choice. -/
def readStill (bs : List Byte) : Except HostError (BitVec 16 × BitVec 16 × List Byte) := do
  let (h, bs) ← takeI32 bs
  let (w, bs) ← takeI32 bs
  let h ← checkDimension h
  let w ← checkDimension w
  let (data, _) ← takeRecord bs
  .ok (h, w, data)

/-- Several length-prefixed records; that bytes after the last are ignored is the model's choice,
log 25. -/
def takeRecords (count : Nat) (bs : List Byte) : Except HostError (List (List Byte)) :=
  match count with
  | 0 => .ok []
  | count + 1 => do
    let (r, rest) ← takeRecord bs
    let rs ← takeRecords count rest
    .ok (r :: rs)

/-- The frame-sequence container: height, width, iFrameGap, and each frame's type and record (R1212).
An iFrameGap or a count the source gives no meaning to is refused (D55). The order of the checks, height,
width, then iFrameGap and count, then the records, is the model's choice, log 26. -/
def readSequence (bs : List Byte) :
    Except HostError (BitVec 16 × BitVec 16 × Nat × List (FrameType × List Byte)) := do
  let (h, bs) ← takeI32 bs
  let (w, bs) ← takeI32 bs
  let h ← checkDimension h
  let w ← checkDimension w
  let (gap, bs) ← takeI32 bs
  let (count, bs) ← takeI32 bs
  if gap ≤ 0 ∨ count < 0 then .error .malformedStream
  else
    let rs ← takeRecords count.toNat bs
    .ok (h, w, gap.toNat,
      (List.range' 0 rs.length).map fun k => (frameType k gap.toNat, rs.getD k []))

/-- An i32 of a container. A value outside the i32 range keeps its low 32 bits, the model's choice,
log 28. -/
def i32Bytes (n : Int) : List Byte := wordBytes (BitVec.ofInt 32 n)

/-- The still-image container's bytes (R1212). -/
def writeStill (h w : BitVec 16) (data : List Byte) : List Byte :=
  i32Bytes h.toNat ++ i32Bytes w.toNat ++ i32Bytes data.length ++ data

/-- The frame-sequence container's bytes (R1212). That an iFrameGap of 0 is written as it is, though a reader
refuses it, is the model's choice, log 29. -/
def writeSequence (h w : BitVec 16) (gap : Nat) (frames : List (List Byte)) : List Byte :=
  i32Bytes h.toNat ++ i32Bytes w.toNat ++ i32Bytes gap ++ i32Bytes frames.length ++
    frames.flatMap fun f => i32Bytes f.length ++ f

/-! ## Frames one after another (R1205, R1208, R1210, R1213) -/

/-- The machine after the host has stored bytes (`before`), started a list at `clp`, and waited until it
ended: a list ends after at most LMEM_SIZE/32 + 1 steps (70_reset_and_hazards.md R1412). The machine is
idle and out of reset, as R1403 asks of the host. -/
def runList (clp : Word) (is : List Instr) (before : List HostMove) (m : State) : State :=
  let moves := before ++ bootMoves clp 0 is
  stepsFrom (moves.length + m.params.lmemSize / 32 + 1) { m with inputs := moves }

/-- The list that decodes a frame of a type: the I-frame list reads no reference plane, the P-frame list
reads the session's (R1204, R1207, R1213). -/
def decompressList (t : FrameType) (b : FrameBuffers) (s : Session) (start stop : Word) : List Instr :=
  match t with
  | .iFrame => decompressI b s start stop
  | .pFrame => decompressP b s start stop

/-- The lists that encode a frame of a type, in order; the last of them writes the new reference (R1203,
R1205, R1206). -/
def compressLists (t : FrameType) (b : FrameBuffers) (s : Session) (radius : Word) :
    List (List Instr) :=
  match t with
  | .iFrame => [compressI b s, referenceI b s]
  | .pFrame => [compressP b s radius]

/-- Several lists one after another, `before` ahead of the first; a list that does not end with DONE is
the last to run. -/
def runLists (clp : Word) (lists : List (List Instr)) (before : List HostMove) (m : State) : State :=
  match lists with
  | [] => m
  | is :: rest =>
    let m' := runList clp is before m
    if endedWithDone m' then runLists clp rest [] m' else m'

/-- What a call gives the caller when its lists have ended: the bytes of its result, or the error
(R1211). -/
def callResult (m : State) (bytes : List Byte) : Except CallError (List Byte) :=
  match callErrorOf m.errCode with
  | none => .ok bytes
  | some e => .error e

/-- Decoding of one frame: the raster or an error, the machine, and the session with its reference
replaced after DONE (R1208). That a record is stored whole at `b.input`, however long it is, is the model's
choice, log 31. -/
def decodeFrame (b : FrameBuffers) (t : FrameType) (record : List Byte) (m : State) (s : Session) :
    Except CallError (List Byte) × State × Session :=
  let stop := b.input + countWord record.length
  let m' := runList b.list (decompressList t b s b.input stop) (hostPokeBytes b.input.toNat record) m
  (callResult m' (readBytes m' b.raster.toNat (3 * s.h.toNat * s.w.toNat)), m', s.afterList m')

/-- Encoding of one frame: the record [OUT, OUTP) or an error, the machine, and the session with its
reference replaced after DONE (R1203, R1206, R1208). That an I-frame whose compression list ended with DONE
and whose reference list (R1205) did not gives the error and no record is the model's choice, log 30. -/
def encodeFrame (b : FrameBuffers) (t : FrameType) (radius : Word) (pixels : List Byte) (m : State)
    (s : Session) : Except CallError (List Byte) × State × Session :=
  let m' := runLists b.list (compressLists t b s radius) (hostPokeBytes b.raster.toNat pixels) m
  (callResult m' (readBytes m' b.out.toNat (m'.outp.toNat - b.out.toNat)), m', s.afterList m')

/-- The frames of one session in order, each list after the previous one has ended (R1210): a frame is
decoded against the reference its predecessors left, and a frame that ends with an error leaves the
reference to its successor as it was (R1213). -/
def decodeFrames (b : FrameBuffers) (frames : List (FrameType × List Byte)) (m : State) (s : Session) :
    List (Except CallError (List Byte)) :=
  match frames with
  | [] => []
  | (t, record) :: rest =>
    let (result, m', s') := decodeFrame b t record m s
    result :: decodeFrames b rest m' s'

/-- The frames of one session encoded in order, frame `k` first, typed by their index (R1212). The model's
choices: an iFrameGap of 0 is not refused (log 29), and encoding goes on after a frame that failed
(log 33). -/
def encodeFrames (b : FrameBuffers) (gap : Nat) (radius : Word) (k : Nat) (frames : List (List Byte))
    (m : State) (s : Session) : List (Except CallError (List Byte)) :=
  match frames with
  | [] => []
  | pixels :: rest =>
    let (result, m', s') := encodeFrame b (frameType k gap) radius pixels m s
    result :: encodeFrames b gap radius (k + 1) rest m' s'

/-- A sequence container decoded: a fresh session of the container's dimensions, whose first frame is an
I-frame (R1212, R1213). -/
def decodeSequence (b : FrameBuffers) (reference spare : Planes) (container : List Byte) (m : State) :
    Except HostError (List (Except CallError (List Byte))) := do
  let (h, w, _, frames) ← readSequence container
  .ok (decodeFrames b frames m { h := h, w := w, reference := reference, spare := spare })

end Sys2Proof.Machine
end

