-- ==== Sys2Proof/Tests/Slice0.lean ====
section
/-! SUPPORT. Tests. Expected values come from spec/95_test_vectors.md, from the encoding tables of
spec/30_encoding.md, or from hand calculation with the rule a comment names; none from the model. -/

namespace Sys2Proof.Tests
open Sys2Proof.Machine

-- One theorem at a time: kernel evaluations run in parallel would each hold a large stack.
set_option Elab.async false

/-! ## Decoding: words written out from 30_encoding.md R301, R304, R306 -/

/-- Each descriptor decodes to its command, and is what the encoder writes for it. -/
def decodesTo (d : Descriptor) (i : Instr) : Bool :=
  (match decode d with
    | .ok j => j == i
    | .error _ => false) && encode i == d

theorem test_decode_control :
    decodesTo ⟨0x00, 0, 0, 0, 0, 0, 0, 0⟩ .nop ∧
    decodesTo ⟨0x01, 0, 0, 0, 0, 0, 0, 0⟩ .halt ∧
    decodesTo ⟨0x02, 0x2000, 0x2010, 0, 0, 0, 0, 0⟩ (.setin 0x2000 0x2010) ∧
    decodesTo ⟨0x03, 0x3000, 0x3100, 0, 0, 0, 0, 0⟩ (.setout 0x3000 0x3100) ∧
    decodesTo ⟨0x04, 0x100, 2, 0, 0, 0, 0, 0⟩ (.sput 0x100 2) ∧
    decodesTo ⟨0x05, 0x500, 2, 0, 0, 0, 0, 0⟩ (.sget 0x500 2) := by decide

theorem test_decode_color_and_subsample :
    decodesTo ⟨0x10, 1, 2, 3, 4, 0x00100008, 0, 0⟩ (.cscf 1 2 3 4 0x00100008) ∧
    decodesTo ⟨0x11, 1, 2, 3, 4, 0x00100008, 0, 0⟩ (.csci 1 2 3 4 0x00100008) ∧
    decodesTo ⟨0x18, 1, 2, 0x00030003, 0, 0, 0, 0⟩ (.subs 1 2 0x00030003) ∧
    decodesTo ⟨0x19, 1, 2, 0x00030003, 0, 0, 0, 0⟩ (.ups 1 2 0x00030003) := by decide

theorem test_decode_transform_and_quantizer :
    decodesTo ⟨0x20, 0x1000, 0x2000, 0, 0, 0, 0, 0⟩ (.fdct 0x1000 0x2000) ∧
    decodesTo ⟨0x21, 0x1000, 0x2000, 0, 0, 0, 0, 0⟩ (.idct 0x1000 0x2000) ∧
    decodesTo ⟨0x28, 1, 2, 0, 0, 0, 0, 0⟩ (.quant 1 2) ∧
    decodesTo ⟨0x128, 1, 2, 0, 0, 0, 0, 0⟩ (.quantC 1 2) ∧
    decodesTo ⟨0x29, 1, 2, 0, 0, 0, 0, 0⟩ (.dequant 1 2) ∧
    decodesTo ⟨0x129, 1, 2, 0, 0, 0, 0, 0⟩ (.dequantC 1 2) ∧
    decodesTo ⟨0x2A, 1, 2, 3, 0, 0, 0, 0⟩ (.qplane 1 2 3) ∧
    decodesTo ⟨0x12A, 0x1000, 0x8000, 0x80008, 0, 0, 0, 0⟩ (.qplaneC 0x1000 0x8000 0x80008) ∧
    decodesTo ⟨0x2B, 1, 2, 3, 0, 0, 0, 0⟩ (.dqplane 1 2 3) ∧
    decodesTo ⟨0x12B, 1, 2, 3, 0, 0, 0, 0⟩ (.dqplaneC 1 2 3) := by decide

theorem test_decode_zigzag_and_zero_run :
    decodesTo ⟨0x30, 1, 2, 0, 0, 0, 0, 0⟩ (.zz 1 2) ∧
    decodesTo ⟨0x31, 1, 2, 0, 0, 0, 0, 0⟩ (.unzz 1 2) ∧
    decodesTo ⟨0x32, 1, 2, 3, 0, 0, 0, 0⟩ (.ser 1 2 3) ∧
    decodesTo ⟨0x132, 1, 2, 3, 0, 0, 0, 0⟩ (.serC 1 2 3) ∧
    decodesTo ⟨0x33, 1, 2, 3, 0, 0, 0, 0⟩ (.deser 1 2 3) ∧
    decodesTo ⟨0x133, 1, 2, 3, 0, 0, 0, 0⟩ (.deserC 1 2 3) ∧
    decodesTo ⟨0x38, 0x200, 300, 0, 0, 0, 0, 0⟩ (.zrle 0x200 300) ∧
    decodesTo ⟨0x39, 0x600, 300, 0, 0, 0, 0, 0⟩ (.zrld 0x600 300) := by decide

theorem test_decode_motion :
    decodesTo ⟨0x40, 1, 2, 3, 4, 5, 6, 0⟩ (.me 1 2 3 4 5 6) ∧
    decodesTo ⟨0x41, 1, 2, 3, 4, 5, 0, 0⟩ (.psub 1 2 3 4 5) ∧
    decodesTo ⟨0x141, 1, 2, 3, 4, 5, 0, 0⟩ (.psubC 1 2 3 4 5) ∧
    decodesTo ⟨0x42, 1, 2, 3, 4, 5, 0, 0⟩ (.padd 1 2 3 4 5) ∧
    decodesTo ⟨0x142, 1, 2, 3, 4, 5, 0, 0⟩ (.paddC 1 2 3 4 5) := by decide

/-- W0 alone, with operand words 1, 2, … that the command may ignore. -/
def withW0 (w0 : Word) : Descriptor := ⟨w0, 1, 2, 3, 4, 5, 6, 7⟩

/-- How a W0 is rejected, if it is. -/
def rejection (w0 : Word) : Option DecodeError :=
  match decode (withW0 w0) with
  | .ok _ => none
  | .error e => some e

/-- The rejections of 95_test_vectors.md 2.2, and both ends of every gap of the opcode map (R307). -/
theorem test_decode_rejections :
    ([0x101, 0x200, 0x80000000, 0x120, 0x140, 0x100, 0x138].map rejection).all
      (· == some .reserved) ∧
    ([0x06, 0x0F, 0x12, 0x17, 0x1A, 0x1F, 0x22, 0x27, 0x2C, 0x2F, 0x34, 0x37, 0x3A, 0x3F, 0x43, 0xFF,
      0x243, 0x106, 0x80000006].map rejection).all (· == some .opcode) ∧
    ([0x05, 0x10, 0x11, 0x18, 0x19, 0x20, 0x21, 0x28, 0x12B, 0x30, 0x33, 0x38, 0x39, 0x40, 0x42,
      0x142].map rejection).all (· == none) := by decide +kernel

/-- Operand words a command does not use are ignored (R302). -/
theorem test_decode_ignores_unused_words : decode (withW0 0x20) = .ok (.fdct 1 2) := by decide

/-- The host's numbering: bit 0 is bit 0 of W0, W1 begins at bit 32. -/
theorem test_decodeTableWord :
    decodeTableWord 32 0x00000130 = none ∧ decodeTableWord 32 0x02 = some (.setin 0 0) ∧
    decodeTableWord 96 0x000020100000200000000002 = some (.setin 0x2000 0x2010) := by decide

theorem test_assembler :
    encode (.qplaneC 0x1000 0x8000 (dimsWord 8 8)) = ⟨0x12A, 0x1000, 0x8000, 0x80008, 0, 0, 0, 0⟩ ∧
    assembleFrom 0 [.command .nop, .org 64, .command .halt] = some [(0, encode .nop), (64, encode .halt)]
    ∧ assembleFrom 0 [.org 33] = none := by decide

/-! ## WellFormed: an ill-formed command for each check -/

theorem test_wellFormed_refuses :
    (Instr.subs 0 0x1000 0x00080000).wellFormed = false ∧
    (Instr.subs 0 0x1000 0x00000008).wellFormed = false ∧
    (Instr.setin 0x3100 0x3000).wellFormed = false ∧
    (Instr.me 0 0x1000 0x2000 0x3000 0x00080008 129).wellFormed = false ∧
    (Instr.fdct 0x1004 0x2000).wellFormed = false ∧
    (Instr.fdct 0x1000 0x2001).wellFormed = false := by decide

theorem test_wellFormed_accepts :
    (Instr.subs 0 0x1000 0x00080008).wellFormed ∧ (Instr.setin 0x10000 0x10000).wellFormed ∧
    (Instr.me 0 0x1000 0x2000 0x3000 0x00080008 128).wellFormed ∧
    (Instr.qplane 0x1000 0x2001 0x00010001).wellFormed := by decide

/-! ## Tables and numbers -/

/-- The inverse walk: UNZZ's row 0 (95_test_vectors.md 2.9), and the last index. -/
theorem test_zigzag_walk :
    (List.range 8).map zzPosition = [0, 1, 5, 6, 14, 15, 27, 28] ∧ zzPosition 63 = 63 := by decide

theorem test_default_tables_legal :
    defaultParams.legal = true ∧ qtabWord defaultQtabLuma 15 = 0x63676470#32 ∧
    qtabWord defaultQtabChroma 0 = 0x2F181211#32 := by decide

/-- 95_test_vectors.md 2.4: 2.5, -2.5, 0.5, -0.4, 127.49999999999999, 127.5, -128.5, infinity, a NaN. -/
theorem test_toI8 :
    [0x4004000000000000#64, 0xC004000000000000, 0x3FE0000000000000, 0xBFD999999999999A,
      0x405FDFFFFFFFFFFF, 0x405FE00000000000, 0xC060100000000000, 0x7FF0000000000000,
      0x7FF8000000000000].map toI8 =
      [some 3, some (-3), some 1, some 0, some 127, some 127, some (-128), some 127, none] := by
  decide +kernel

/-- 95_test_vectors.md 2.4: -0.5, -0.0, 0.49999999999999994, 254.49999999999997, 254.5, infinities. -/
theorem test_toU8 :
    [0xBFE0000000000000#64, 0x8000000000000000, 0x3FDFFFFFFFFFFFFF, 0x406FCFFFFFFFFFFF,
      0x406FD00000000000, 0x7FF0000000000000, 0xFFF0000000000000].map toU8 =
      [some 0, some 0, some 0, some 254, some 255, some 255, some 0] := by decide +kernel

/-- IEEE 754: 0.1 + 0.2, 1/3, the tie 2^53 + 1, the least subnormal halved, 1e308 + 1e308, inf - inf,
0 · -inf, -0 + -0. -/
theorem test_arithmetic :
    fadd 0x3FB999999999999A 0x3FC999999999999A = 0x3FD3333333333334 ∧
    fdiv 0x3FF0000000000000 0x4008000000000000 = 0x3FD5555555555555 ∧
    fadd 0x4340000000000000 0x3FF0000000000000 = 0x4340000000000000 ∧
    fmul 0x0000000000000001 0x3FE0000000000000 = 0x0000000000000000 ∧
    fadd 0x7FE1CCF385EBC8A0 0x7FE1CCF385EBC8A0 = 0x7FF0000000000000 ∧
    fsub 0x7FF0000000000000 0x7FF0000000000000 = 0x7FF8000000000000 ∧
    fmul 0x0000000000000000 0xFFF0000000000000 = 0x7FF8000000000000 ∧
    fadd 0x8000000000000000 0x8000000000000000 = 0x8000000000000000 := by decide +kernel

/-! ## One step of one command -/

/-- A busy machine with LMEM_SIZE 0x10000 (as 95_test_vectors.md has it) and the given bytes listed. -/
def machine (blocks : List (Nat × List Byte)) : State :=
  blocks.foldl (fun s b => writeBytes s b.1 b.2)
    { State.reset with params := { defaultParams with lmemSize := 0x10000 }, busy := true }

/-- The machine with its stream cursors set. -/
def streams (inp inEnd outp outEnd : Word) (s : State) : State :=
  { s with inp := inp, inEnd := inEnd, outp := outp, outEnd := outEnd }

/-- The state after a command. -/
def after (i : Instr) (s : State) : State :=
  match exec i s with
  | .next t => t
  | .fault _ => s
  | .refused _ => s

/-- The bytes of packed binary64 integers. -/
def reals (xs : List Int) : List Byte := xs.flatMap fun x => f64Bytes (f64OfInt x)

theorem test_nop : (after .nop { machine [] with cp := 0x40 }).cp = 0x60 := by decide

theorem test_halt :
    let t := after .halt (machine [])
    t.cp = 0x20 ∧ t.cmdCount = 1 ∧ statusWord t = 2 := by decide

/-- K3, K5. -/
theorem test_setin :
    (after (.setin 0x2000 0x2010) (machine [])).inEnd = 0x2010 ∧
    (after (.setin 0x10000 0x10000) (machine [])).inp = 0x10000 := by decide

/-- K6. -/
theorem test_setout :
    let t := after (.setout 0x3100 0x3000) (machine [])
    t.errCode = .arg ∧ t.outp = 0 ∧ t.cp = 0 := by decide

/-- K7. -/
theorem test_sput :
    let t := after (.sput 0x100 2) (streams 0 0 0x3000 0x3100 (machine [(0x100, [5, 0xFB])]))
    readBytes t 0x3000 2 = [5, 0xFB] ∧ t.outp = 0x3002 := by decide

/-- K8, K9, K11. -/
theorem test_sput_errors :
    (after (.sput 0x100 2) (streams 0 0 0x100 0x101 (machine []))).errCode = .overflow ∧
    (after (.sput 0x100 2) (streams 0 0 0x200 0x100 (machine []))).errCode = .range ∧
    (after (.sput 0x10001 0) (machine [])).errCode = .range := by decide

/-- K13. -/
theorem test_sget :
    let t := after (.sget 0x500 2) (streams 0x2000 0x2002 0 0 (machine [(0x2000, [1, 2])]))
    readBytes t 0x500 2 = [1, 2] ∧ t.inp = 0x2002 := by decide

/-- K12. -/
theorem test_sget_malformed :
    let t := after (.sget 0x500 2) (streams 0x2000 0x2001 0 0 (machine []))
    t.errCode = .malformed ∧ t.inp = 0x2000 := by decide

/-- The red pixel of 95_test_vectors.md 2.5. -/
theorem test_cscf :
    let t := after (.cscf 0x100 0x200 0x208 0x210 0x00010001) (machine [(0x100, [255, 0, 0])])
    readF64 t 0x200 = 0x40530FAE147AE147 ∧ readF64 t 0x208 = 0x40553E3A7DAA4FCA ∧
    readF64 t 0x210 = 0x406FF00000000000 := by decide +kernel

/-- The triple (100, 255, 0) of 95_test_vectors.md 2.5. -/
theorem test_csci :
    readBytes (after (.csci 0x200 0x208 0x210 0x100 0x00010001)
      (machine [(0x200, reals [100, 255, 0])])) 0x100 3 = [0, 148, 255] := by decide +kernel

/-- A NaN channel is E_NUMERIC. -/
theorem test_csci_nan :
    (after (.csci 0x200 0x208 0x210 0x100 0x00010001)
      (machine [(0x200, f64Bytes f64NaN ++ reals [128, 128])])).errCode = .numeric := by decide +kernel

/-- SUBS DIMS(2, 2) keeps a NaN's bits (95_test_vectors.md 2.6). -/
theorem test_subs :
    readBytes (after (.subs 0x200 0x300 0x00020002)
      (machine [(0x200, f64Bytes 0xFFF0000000000001)])) 0x300 8 =
      [0x01, 0, 0, 0, 0, 0, 0xF0, 0xFF] := by decide +kernel

/-- UPS DIMS(1, 5) of 1, 3, 5 gives 1, 1, 3, 3, 5 (95_test_vectors.md 2.6); the third and the last. -/
theorem test_ups :
    let t := after (.ups 0x200 0x300 0x00050001) (machine [(0x200, reals [1, 3, 5])])
    readF64 t 0x310 = f64OfInt 3 ∧ readF64 t 0x320 = f64OfInt 5 := by decide +kernel

/-- T6: a NaN sample makes every output a NaN; 43_transform.md R704. -/
theorem test_fdct_nan :
    readByte (after (.fdct 0x1000 0x2000) (machine [(0x1000, f64Bytes f64NaN)])) 0x21FF = 0x7F := by
  decide +kernel

/-- Q2, Q3: F[0][0] of 255s, over 16 and over 17. -/
theorem test_quant :
    quantEntry (quantTable false State.reset) [0x409FE00000000002] 0 = some 127 ∧
    quantEntry (quantTable true State.reset) [0x409FE00000000002] 0 = some 120 := by decide +kernel

/-- Q6: a NaN sample is E_NUMERIC, in both forms. -/
theorem test_quant_nan :
    (after (.quant 0x1000 0x2000) (machine [(0x1000, f64Bytes f64NaN)])).errCode = .numeric ∧
    (after (.quantC 0x1000 0x2000) (machine [(0x1000, f64Bytes f64NaN)])).errCode = .numeric := by
  decide +kernel

/-- Q12: QPLANE to an odd address has no E_ALIGN; a NaN sample is E_NUMERIC, in both forms. -/
theorem test_qplane :
    (after (.qplane 0x1000 0x2001 0x00010001) (machine [(0x1000, f64Bytes f64NaN)])).errCode = .numeric ∧
    (after (.qplaneC 0x1000 0x2001 0x00020002) (machine [(0x1000, f64Bytes f64NaN)])).errCode = .numeric
    := by decide +kernel

/-- 0, 1, …, n - 1 as bytes. -/
def counting (n : Nat) : List Byte := (List.range n).map fun k => BitVec.ofNat 8 k

/-- The block holding k at k gives the walk itself. -/
theorem test_zz :
    readBytes (after (.zz 0x200 0x300) (machine [(0x200, counting 64)])) 0x300 8 =
      [0, 1, 8, 16, 9, 2, 3, 10] := by decide +kernel

theorem test_unzz :
    readBytes (after (.unzz 0x200 0x300) (machine [(0x200, counting 64)])) 0x300 8 =
      [0, 1, 5, 6, 14, 15, 27, 28] := by decide +kernel

/-- SER DIMS(8, 16): tile 1 of the plane holding 16r + c (95_test_vectors.md 2.9 less its -64). -/
theorem test_ser :
    readBytes (after (.ser 0x200 0x300 0x00100008) (machine [(0x200, counting 128)])) 0x340 8 =
      [8, 9, 24, 40, 25, 10, 11, 26] := by decide +kernel

/-- SER.C DIMS(16, 32) has the same chroma plane. -/
theorem test_serC :
    readBytes (after (.serC 0x200 0x300 0x00200010) (machine [(0x200, counting 128)])) 0x340 4 =
      [8, 9, 24, 40] := by decide +kernel

/-- DESER puts entries 64, 65, … at row 0, columns 8, 9, 10, … in the inverse walk. -/
theorem test_deser :
    readBytes (after (.deser 0x200 0x300 0x00100008) (machine [(0x200, counting 128)])) 0x308 4 =
      [64, 65, 69, 70] := by decide +kernel

theorem test_deserC :
    readBytes (after (.deserC 0x200 0x300 0x00200010) (machine [(0x200, counting 128)])) 0x308 4 =
      [64, 65, 69, 70] := by decide +kernel

/-- The row 5, 0, 0, -1, 0 of 95_test_vectors.md 2.9. -/
theorem test_zrle :
    let t := after (.zrle 0x200 5) (streams 0 0 0x3000 0x3100 (machine [(0x200, [5, 0, 0, 0xFF, 0])]))
    readBytes t 0x3000 6 = [5, 0, 2, 0xFF, 0, 1] ∧ t.outp = 0x3006 := by decide +kernel

/-- The runs of 255, 256 and 511 zeros. -/
theorem test_zrlEncode :
    zrlEncode (List.replicate 255 0) = [0, 0xFF] ∧
    zrlEncode (List.replicate 256 0) = [0, 0xFF, 0, 1] ∧
    zrlEncode (List.replicate 511 0) = [0, 0xFF, 0, 0xFF, 0, 1] := by decide +kernel

/-- The stream 07 00 02 09, n = 3: the 09 is not read. -/
theorem test_zrld :
    let t := after (.zrld 0x200 3) (streams 0x3000 0x3004 0 0 (machine [(0x3000, [7, 0, 2, 9])]))
    readBytes t 0x200 3 = [7, 0, 0] ∧ t.inp = 0x3003 := by decide +kernel

/-- The decoding table of 95_test_vectors.md 2.9. -/
theorem test_zrlDecode :
    zrlDecode [] 1 = none ∧ zrlDecode [0] 1 = none ∧ zrlDecode [0, 0, 5] 1 = some ([5], 3) ∧
    zrlDecode [0, 3] 2 = none ∧ zrlDecode [0, 0] 0 = some ([], 0) ∧
    zrlDecode [3, 0, 5, 1] 4 = none := by decide

/-- A 1 by 9 frame: the second macroblock is sample 8 alone, whose target 5 stands at reference
column 7. Vector (-1, 0), residual 0 (47_motion.md R1106). -/
theorem test_me :
    let t := after (.me 0x100 0x200 0x300 0x400 0x00090001 1)
      (machine [(0x100, reals [0, 0, 0, 0, 0, 0, 0, 5, 3]), (0x200, reals [0, 0, 0, 0, 0, 0, 0, 5, 5])])
    readBytes t 0x302 2 = [0xFF, 0] ∧ readByte t 0x447 = 0 := by decide +kernel

/-- As M12: the vector (-128, 127) clamps to column 0. 10 - 3 and 20 - 3. -/
theorem test_psub :
    let t := after (.psub 0x100 0x200 0x300 0x400 0x00020001)
      (machine [(0x100, reals [10, 20]), (0x200, reals [3, 4]), (0x300, [0x80, 0x7F])])
    readF64 t 0x400 = f64OfInt 7 ∧ readF64 t 0x408 = f64OfInt 17 := by decide +kernel

/-- The vector (1, 0) clamps to column 1: 10 + 4 and 20 + 4. -/
theorem test_padd :
    let t := after (.padd 0x100 0x200 0x300 0x400 0x00020001)
      (machine [(0x100, reals [10, 20]), (0x200, reals [3, 4]), (0x300, [1, 0])])
    readF64 t 0x400 = f64OfInt 14 ∧ readF64 t 0x408 = f64OfInt 24 := by decide +kernel

/-- A 1 by 18 frame has 3 macroblocks; chroma sample 8 uses the vector of macroblock 1, (-2, 0), so
its prediction is sample 6 (47_motion.md R1109). 10 - 60. -/
theorem test_psubC :
    readByte (after (.psubC 0x100 0x200 0x300 0x400 0x00120001)
      (machine [(0x100, reals [10, 10, 10, 10, 10, 10, 10, 10, 10]),
        (0x200, reals [0, 10, 20, 30, 40, 50, 60, 70, 80]), (0x300, [1, 0, 0xFE, 0, 2, 0])])) 0x446 =
      0x49 := by decide +kernel

/-- The same prediction, added: 10 + 60 = 70.0 is 0x4051800000000000. -/
theorem test_paddC :
    readByte (after (.paddC 0x100 0x200 0x300 0x400 0x00120001)
      (machine [(0x100, reals [10, 10, 10, 10, 10, 10, 10, 10, 10]),
        (0x200, reals [0, 10, 20, 30, 40, 50, 60, 70, 80]), (0x300, [1, 0, 0xFE, 0, 2, 0])])) 0x446 =
      0x51 := by decide +kernel

/-! ## Errors: 95_test_vectors.md 2.11 -/

theorem test_error_priority :
    [Instr.qplaneC 0x1004 0x8000 0, .me 0 0x1000 0x2000 0x3000 0 129,
      .me 0xFF00 0x1000 0x2000 0x3000 0x00100008 129, .fdct 0xFFFC 0, .fdct 0x1004 0x1100,
      .fdct 0x1000 0x1100, .idct 0x1004 0x2000, .setin 0x20000 0x10001,
      .cscf 0 0x1000 0x2000 0x3000 0xFFFF0001, .zz 0x200 0x210].map
      (fun i => (after i (machine [])).errCode) =
      [.dims, .dims, .arg, .range, .align, .overlap, .align, .arg, .range, .overlap] := by
  decide +kernel

/-! ## The step -/

/-- The bytes of a command at LMEM 0, about to run. -/
def running (i : Instr) : State :=
  { machine [(0, encodeBytes i)] with boundaries := [⟨0, 0, 0, 0⟩] }

/-- The state after a step. -/
def stepped (s : State) : State :=
  match step s with
  | .next t => t
  | .fault _ => s
  | .refused _ => s

/-- The step fetches at CP and runs what it decodes. -/
theorem test_step_runs : (stepped (running (.setin 0x2000 0x2010))).inp = 0x2000 := by decide +kernel

/-- K14: a fetch at LMEM_SIZE is E_RANGE and leaves CP. -/
theorem test_step_fetch_range :
    let t := stepped { machine [] with cp := 0x10000, cmdCount := 1 }
    t.errCode = .range ∧ t.cp = 0x10000 ∧ t.cmdCount = 1 ∧ statusWord t = 4 := by decide +kernel

/-- The host's word for FDCT runs as FDCT. -/
theorem test_withFetchWord :
    (stepped (State.reset.withFetchWord 96 0x000020000000100400000020)).errCode = .align ∧
    (stepped (State.reset.withFetchWord 32 0x00000001)).done = true := by decide +kernel

/-! ## The host port: 95_test_vectors.md 2.1 -/

/-- The idle machine with one host access to make. -/
def asking (r : HostReq) (s : State) : State := { s with inputs := [.access r] }

/-- The idle machine of 95_test_vectors.md. -/
def idle : State := { machine [] with busy := false }

/-- S1, S3, S4, S7, S11. -/
theorem test_register_reads :
    [0x000#25, 0x030, 0x100, 0x17C, 0x034].map (fun off => (stepped (asking (readReq off) idle)).replies) =
      [[.data 0x434D5001], [.data 0x10000], [.data 0x100A0B10], [.data 0x63636363], [.data 0]] := by
  decide +kernel

/-- S8, S9, S13. -/
theorem test_register_writes :
    (stepped (asking (writeReq 0x010 0x1234) idle)).clp = 0x1220 ∧
    irqEnWord (stepped (asking (writeReq 0x00C 0xFFFFFFFF) idle)) = 6 ∧
    (stepped (asking (writeReq 0x008 2) { idle with done := true, doneIe := true })).done = false := by
  decide +kernel

/-- S16, S18. -/
theorem test_ctrl :
    (stepped (asking (writeReq 0x004 1) (machine []))).busy = true ∧
    (stepped (asking (writeReq 0x010 0x40) (machine []))).clp = 0 ∧
    (stepped (asking (writeReq 0x004 3) { idle with clp := 0x40 })).clp = 0 ∧
    (stepped (asking (writeReq 0x004 3) idle)).busy = false ∧
    (stepped (asking (writeReq 0x004 1) { idle with clp := 0x40 })).cp = 0x40 := by decide +kernel

/-- 10_state.md R115, R118: a write to LMEM lands at once when idle, and is held while busy. -/
theorem test_lmem_window :
    readBytes (stepped (asking (writeReq 0x1000100 0x04030201) idle)) 0x100 4 = [1, 2, 3, 4] ∧
    (stepped (asking (writeReq 0x1000100 0x04030201) (machine []))).held = [writeReq 0x1000100 0x04030201] := by
  decide +kernel

/-! ## Witnesses: states and operands that meet the hypotheses of the statements -/

theorem apart_of_le {a n b m : Nat} (h : a + n ≤ b ∨ b + m ≤ a) : Apart a n b m := by
  intro x
  omega

/-- The command in LMEM 0 is what a step there decodes. -/
def fetches (i : Instr) (s : State) : Prop :=
  s.busy = true ∧ s.inputs = [] ∧ s.cp.toNat + 32 ≤ s.params.lmemSize ∧
    decodeBytes (readBytes s s.cp.toNat 32) = .ok i

theorem witness_decode_follows_w0 :
    (withW0 0x120).w0.toNat / 512 = 0 ∧ (withW0 0x120).w0.toNat / 256 % 2 = 1 ∧
    (withW0 0x128).w0.toNat % 256 ∈ [0x28, 0x29, 0x2A, 0x2B, 0x32, 0x33, 0x41, 0x42] ∧
    (withW0 0x243).w0.toNat % 256 = 0x43 ∧ (withW0 0x200).w0.toNat / 512 ≠ 0 := by decide

theorem witness_step_runs_decoded :
    fetches .nop (running .nop) ∧ fetches (.fdct 0x1000 0x2000) (running (.fdct 0x1000 0x2000)) := by
  refine ⟨⟨rfl, rfl, ?_, ?_⟩, rfl, rfl, ?_, ?_⟩ <;> decide +kernel

/-- Steps 1 and 2: the last descriptor address, the first that does not fit, and both decode errors. -/
theorem witness_first_error_fetch :
    (0xFFE0#32).toNat + 32 ≤ (machine []).params.lmemSize ∧
    (machine []).params.lmemSize < (0xFFE1#32).toNat + 32 ∧
    decodeBytes (readBytes (machine [(0, (withW0 6).bytes)]) 0 32) = .error .opcode ∧
    decodeBytes (readBytes (machine [(0, (withW0 0x101).bytes)]) 0 32) = .error .reserved := by
  decide +kernel

/-- Steps 3 to 6: a height of 0; a radius of 129, and SETIN with addr one past end; a block one element
past LMEM_SIZE, an end one past it, and cursors out of order; a base that is not a multiple of 8. -/
theorem witness_first_error_operands :
    (fetches (.subs 0x1000 0x2000 0x10000) (running (.subs 0x1000 0x2000 0x10000)) ∧
      ∃ d, dimsOperand (.subs 0x1000 0x2000 0x10000) = some d ∧ dimsH d = 0) ∧
    (fetches (.me 0 0x1000 0x2000 0x3000 0x00080008 129) (running (.me 0 0x1000 0x2000 0x3000 0x00080008 129)) ∧
      128 < (129#32).toNat) ∧
    (fetches (.setin 0x101 0x100) (running (.setin 0x101 0x100)) ∧ (0x100#32).toNat < (0x101#32).toNat) ∧
    (fetches (.fdct 0xFE08 0) (running (.fdct 0xFE08 0)) ∧
      ∃ p ∈ namedSources (.fdct 0xFE08 0),
        (machine []).params.lmemSize < p.base.toNat + p.kind.size) ∧
    (fetches (.setout 0 0x10001) (running (.setout 0 0x10001)) ∧
      (machine []).params.lmemSize < (0x10001#32).toNat) ∧
    (fetches (.zrld 0 1) (streams 0x101 0x100 0 0 (running (.zrld 0 1))) ∧
      cursorsOf (.zrld 0 1) (streams 0x101 0x100 0 0 (machine [])) = some (0x101, 0x100)) ∧
    (fetches (.fdct 0x1004 0x2000) (running (.fdct 0x1004 0x2000)) ∧
      ∃ p ∈ namedSources (.fdct 0x1004 0x2000), p.kind.real = true ∧ p.base.toNat % 8 ≠ 0) := by
  refine ⟨⟨⟨rfl, rfl, ?_, ?_⟩, 0x10000, rfl, ?_⟩, ⟨⟨rfl, rfl, ?_, ?_⟩, ?_⟩, ⟨⟨rfl, rfl, ?_, ?_⟩, ?_⟩,
    ⟨⟨rfl, rfl, ?_, ?_⟩, ⟨0xFE08, .rblk⟩, ?_, ?_⟩, ⟨⟨rfl, rfl, ?_, ?_⟩, ?_⟩, ⟨⟨rfl, rfl, ?_, ?_⟩, rfl⟩,
    ⟨rfl, rfl, ?_, ?_⟩, ⟨0x1004, .rblk⟩, ?_, rfl, ?_⟩ <;>
  decide +kernel

/-- Steps 7 and 8, and the pass: SPUT and SGET one byte past a stream's end, FDCT onto the next block 8
bytes too near, and onto the next block. -/
theorem witness_first_error_last :
    (fetches (.sput 0x100 2) (streams 0 0 0x3000 0x3001 (running (.sput 0x100 2))) ∧
      (0x3001#32).toNat < (0x3000#32).toNat + (2#32).toNat) ∧
    (fetches (.sget 0x100 2) (streams 0x3000 0x3001 0 0 (running (.sget 0x100 2))) ∧
      (0x3001#32).toNat < (0x3000#32).toNat + (2#32).toNat) ∧
    (fetches (.fdct 0x1000 0x11F8) (running (.fdct 0x1000 0x11F8)) ∧
      destsOf (.fdct 0x1000 0x11F8) (machine []) = [⟨0x11F8, 512⟩] ∧
      sourcesOf (.fdct 0x1000 0x11F8) (machine []) = [⟨0x1000, 512⟩] ∧ ¬ Apart 0x11F8 512 0x1000 512) ∧
    fetches (.fdct 0x1000 0x1200) (running (.fdct 0x1000 0x1200)) ∧ Apart 0x1200 512 0x1000 512 := by
  refine ⟨⟨⟨rfl, rfl, ?_, ?_⟩, ?_⟩, ⟨⟨rfl, rfl, ?_, ?_⟩, ?_⟩,
    ⟨⟨rfl, rfl, ?_, ?_⟩, rfl, rfl, fun h => h 0x11F8 ?_ ?_ ?_ ?_⟩,
    ⟨rfl, rfl, ?_, ?_⟩, apart_of_le ?_⟩ <;> decide +kernel

/-- A machine that runs a NOP is legal, and steps. -/
theorem witness_step_keeps_legal :
    Legal (running .nop) ∧ ∃ t, step (running .nop) = .next t := by
  refine ⟨⟨?_, ⟨?_, ?_⟩, ⟨rfl, rfl⟩, ?_, ⟨fun _ => ⟨rfl, ?_, ?_⟩, ?_⟩, ?_, ?_⟩, _, rfl⟩
  · decide +kernel
  · decide +kernel
  · decide +kernel
  · refine ⟨fun _ => ⟨rfl, rfl, rfl⟩, ?_, ?_, ?_⟩ <;> decide
  · decide +kernel
  · decide +kernel
  · intro h
    cases h
  · exact Nat.zero_le _
  · intro h
    cases h

/-- A machine in reset is legal, and its release steps. -/
theorem witness_legal_in_reset :
    let s := { machine [] with inReset := true, busy := false, boundaries := [], lmem := [],
                               inputs := [.rstRelease] }
    Legal s ∧ ∃ t, step s = .next t := by
  refine ⟨⟨?_, ⟨rfl, ?_⟩, ⟨rfl, rfl⟩, ?_, ⟨?_, fun _ => rfl⟩, ?_, fun _ => ?_⟩, _, rfl⟩
  · decide +kernel
  · intro cell h
    cases h
  · refine ⟨?_, ?_, ?_, ?_⟩ <;> decide
  · intro h
    cases h
  · exact Nat.zero_le _
  · refine ⟨?_, ?_, ?_, ?_, ?_, ?_, ?_, ?_, ?_, ?_, ?_, ?_, ?_, ?_, ?_⟩ <;> rfl

theorem witness_every_run_ends :
    HostQuiet (running .nop) ∧ (running .nop).busy = true ∧ (running .nop).done = false ∧
    (running .nop).err = false ∧ (running .nop).params.lmemSize ≤ 0x1000000 :=
  ⟨⟨rfl, rfl⟩, rfl, rfl, rfl, by decide⟩

/-- HALT sets DONE and clears BUSY; an undefined opcode sets ERR; START sets BUSY and clears both; a
write of 1s to STATUS clears both. -/
theorem witness_status_changes :
    (stepped (running .halt)).done = true ∧ (stepped (running .halt)).busy = false ∧
    (stepped (machine [(0, (withW0 6).bytes)])).err = true ∧
    (stepped (asking (writeReq 0x004 1) { idle with done := true, err := true })).busy = true ∧
    (stepped (asking (writeReq 0x004 1) { idle with done := true })).done = false ∧
    (stepped (asking (writeReq 0x004 1) { idle with err := true })).err = false ∧
    (stepped (asking (writeReq 0x008 6) { idle with done := true })).done = false ∧
    (stepped (asking (writeReq 0x008 6) { idle with err := true })).err = false := by decide +kernel

/-- CP changes by START, by a completion, and by a reset. -/
theorem witness_cp_changes :
    (stepped (asking (writeReq 0x004 1) { idle with clp := 0x40 })).cp = 0x40 ∧
    (stepped (running .nop)).cp = 0x20 ∧
    (stepped (asking (writeReq 0x004 2) { idle with cp := 0x40 })).cp = 0 ∧
    (stepped { idle with cp := 0x40, inputs := [.rstAssert] }).cp = 0 ∧
    (stepped { idle with cp := 0x40, inputs := [.rstRelease], inReset := true }).cp = 0 := by
  decide +kernel

/-- A list goes on, ends with DONE, ends with ERR; each from a legal state. -/
theorem witness_end_of_list_reported :
    (stepped (running .nop)).busy = true ∧ statusWord (stepped (running .halt)) = 2 ∧
    statusWord (stepped (running (.fdct 0x1004 0))) = 4 ∧
    (running .nop).inputs = [] ∧ (running .nop).busy = true := by decide +kernel

/-- Any access is the host's turn on the idle machine, and on a busy one. -/
theorem witness_hostTurn (r : HostReq) :
    HostTurn (asking r idle) r [] ∧ HostTurn (asking r (machine [])) r [] :=
  ⟨⟨rfl, .inr rfl, rfl⟩, rfl, .inl rfl, rfl⟩

/-- A write to CTRL: SRST with and without START, START, and neither; idle and busy. -/
theorem witness_ctrl_write :
    (2#32).getLsbD 1 = true ∧ (3#32).getLsbD 1 = true ∧
    ((1#32).getLsbD 1 = false ∧ (1#32).getLsbD 0 = true ∧ (asking (writeReq 0x004 1) idle).busy = false) ∧
    (asking (writeReq 0x004 1) (machine [])).busy = true ∧
    ((0xFFFFFFFC#32).getLsbD 0 = false ∧ (0xFFFFFFFC#32).getLsbD 1 = false) := by decide

/-- A soft reset of an idle machine, of a busy one at a command, at a W0 that decodes to nothing, and
where nothing can be fetched. -/
theorem witness_soft_reset :
    (asking (writeReq 0x004 2) idle).busy = false ∧
    decodeBytes (readBytes (asking (writeReq 0x004 2) (running .nop)) 0 32) = .ok .nop ∧
    decodeBytes (readBytes (asking (writeReq 0x004 2) (machine [(0, (withW0 6).bytes)])) 0 32) =
      .error .opcode ∧
    (idle.params.lmemSize < (0x10000#32).toNat + 32) := by decide +kernel

theorem witness_hardware_reset :
    ((running .nop).busy = true ∨ (running .nop).held = []) ∧
    { idle with inReset := true, inputs := [.rstRelease] }.inReset = true ∧
    { idle with inReset := true, inputs := [.access (readReq 0)] }.inReset = true := by decide

/-- The map's first and last registers, the table windows' ends, and CLP while busy. -/
theorem witness_register_reads :
    (0x000#25, 0x434D5001#32) ∈ [(0x000#25, 0x434D5001#32), (0x004#25, 0)] ∧
    (0x100#25).toNat = 0x100 + 4 * 0 ∧ (0x13C#25).toNat = 0x100 + 4 * 15 ∧
    (0x140#25).toNat = 0x140 + 4 * 0 ∧ (0x17C#25).toNat = 0x140 + 4 * 15 ∧
    0x010#25 ∉ [0x014#25, 0x01C#25, 0x020#25, 0x028#25] ∧
    (asking (readReq 0x010) (machine [])).busy = true := by decide

theorem witness_register_writes :
    idle.busy = false ∧ (0xFFC#25).toNat < 0x1000 ∧
    0xFFC#25 ∉ [0x004#25, 0x008#25, 0x00C#25, 0x010#25, 0x020#25, 0x024#25, 0x028#25, 0x02C#25] ∧
    0x030#25 ∉ [0x004#25, 0x008#25, 0x00C#25, 0x010#25, 0x020#25, 0x024#25, 0x028#25, 0x02C#25] := by
  decide

/-- A 1-byte and an unaligned register access; the ends of the gaps of the offset map. -/
theorem witness_other_accesses :
    (⟨false, 0xFFF, 0, 0⟩ : HostReq).size ≠ 2#2 ∧ (readReq 0x002).addr.toNat % 4 ≠ 0 ∧
    0x1000 ≤ (readReq 0x1000).addr.toNat ∧ (readReq 0xFFFFFF).addr.toNat < 0x1000000 ∧
    0x1000000 + idle.params.lmemSize ≤ (readReq 0x1010000).addr.toNat ∧
    0x034 ≤ (readReq 0x034).addr.toNat ∧ (readReq 0x0FC).addr.toNat < 0x100 ∧
    0x180 ≤ (readReq 0x180).addr.toNat ∧ (readReq 0xFFC).addr.toNat < 0x1000 := by decide

/-- Accesses of each size to the last bytes of the window, and one of each that does nothing. -/
theorem witness_lmem_window :
    (readReq 0x100FFFC).addr.toNat = 0x1000000 + 0xFFFC ∧ 0xFFFC < idle.params.lmemSize ∧
    0xFFFC % 4 = 0 ∧ 0xFFFC + 4 ≤ idle.params.lmemSize ∧
    (⟨true, 0x100FFFF, 0, 0⟩ : HostReq).addr.toNat = 0x1000000 + 0xFFFF ∧
    0xFFFF + 1 ≤ idle.params.lmemSize ∧ 0xFFFE % 4 ≠ 0 ∧
    (⟨false, 0x1000000, 3, 0⟩ : HostReq).size = 3#2 := by decide

/-- An access to LMEM held while busy, and performed when idle. -/
theorem witness_held_accesses :
    0x1000000 ≤ (readReq 0x1000000).addr.toNat ∧ (readReq 0x100FFFC).addr.toNat < 0x1000000 + idle.params.lmemSize
    ∧ (asking (readReq 0x1000000) (machine [])).busy = true ∧
    { idle with held := [readReq 0x1000000, readReq 0x100FFFC] }.busy = false := by decide

theorem witness_busy_accesses_harmless :
    (machine []).busy = true ∧ (machine []).done = false ∧ (machine []).err = false ∧
    ¬ isSrst (writeReq 0x004 1) ∧ ¬ isSrst (writeReq 0x00C 2) ∧ ¬ isSrst (readReq 0x014) := by
  refine ⟨rfl, rfl, rfl, ?_, ?_, ?_⟩ <;> · unfold isSrst; decide

/-- A busy read of CP after two boundaries. -/
theorem witness_busy_reads :
    Legal (asking (readReq 0x014) (running .nop)) ∧ (asking (readReq 0x014) (running .nop)).busy = true := by
  have h := witness_step_keeps_legal.1
  exact ⟨⟨h.params, h.lmem, h.pointers, h.status, h.boundaries, h.count, h.reset⟩, rfl⟩

theorem witness_zero_dimensions : dimsH 0x00010000 = 0 ∧ dimsW 0x0000FFFF = 0 := by decide

theorem witness_setin_and_setout :
    (0x10000#32).toNat ≤ (0x10000#32).toNat ∧ (0x10000#32).toNat ≤ (machine []).params.lmemSize ∧
    (0x0FFF#32).toNat < (0x1000#32).toNat ∧ (machine []).params.lmemSize < (0x10001#32).toNat := by decide

/-- SPUT that just fits, and SPUT of nothing at the end of LMEM. -/
theorem witness_sput :
    ReadySput (streams 0 0 0x3000 0x3002 (machine [])) 0x100 2 ∧ ReadySput (machine []) 0x10000 0 :=
  ⟨⟨by unfold Fits; decide, by unfold CursorsSane; decide, by decide, apart_of_le (by decide)⟩,
    by unfold Fits; decide, by unfold CursorsSane; decide, by decide, apart_of_le (by decide)⟩

theorem witness_sget : ReadySget (streams 0x2000 0x2002 0 0 (machine [])) 0x500 2 :=
  ⟨by unfold Fits; decide, by unfold CursorsSane; decide, by decide, apart_of_le (by decide)⟩

theorem witness_cscf : ReadyCscf (machine []) 0x100 0x200 0x208 0x210 0x00010001 := by
  refine ⟨by unfold DimsLegal; decide, ⟨by unfold Fits; decide, ?_⟩, ?_⟩
  · intro p hp
    simp only [List.mem_cons, List.not_mem_nil, or_false] at hp
    rcases hp with rfl | rfl | rfl <;>
      exact ⟨by unfold Fits; decide, by unfold Mult8; decide, apart_of_le (by decide)⟩
  · simp only [List.pairwise_cons, List.mem_cons, List.not_mem_nil, or_false, forall_eq_or_imp, forall_eq,
      List.Pairwise.nil, and_true, false_implies, implies_true]
    exact ⟨⟨apart_of_le (by decide), apart_of_le (by decide)⟩, apart_of_le (by decide)⟩

/-- CSCI of a pixel with no NaN channel, and of one with a NaN in Y. -/
theorem witness_csci :
    let s := machine [(0x200, reals [100, 255, 0])]
    let t := machine [(0x200, f64Bytes f64NaN ++ reals [128, 128])]
    ReadyCsci s 0x200 0x208 0x210 0x100 0x00010001 ∧ ReadyCsci t 0x200 0x208 0x210 0x100 0x00010001 ∧
    (∀ j r c, j < 3 → r < 1 → c < 1 → f64IsNaN (csciChannel s 0x200 0x208 0x210 1 j r c) = false) ∧
    ∃ j r c, j < 3 ∧ r < 1 ∧ c < 1 ∧ f64IsNaN (csciChannel t 0x200 0x208 0x210 1 j r c) = true := by
  have h : ∀ blocks, ReadyCsci (machine [blocks]) 0x200 0x208 0x210 0x100 0x00010001 := by
    intro blocks
    have hf : ∀ a n, a.toNat + n ≤ 0x10000 → Fits (machine [blocks]) a n := fun _ _ h => h
    refine ⟨by unfold DimsLegal; decide, hf _ _ (by decide), ?_⟩
    intro p hp
    simp only [List.mem_cons, List.not_mem_nil, or_false] at hp
    rcases hp with rfl | rfl | rfl <;>
      exact ⟨hf _ _ (by decide), by unfold Mult8; decide, apart_of_le (by decide)⟩
  refine ⟨h _, h _, ?_, 0, 0, 0, by decide, by decide, by decide, by decide +kernel⟩
  have hd : ∀ j < 3, f64IsNaN (csciChannel (machine [(0x200, reals [100, 255, 0])]) 0x200 0x208 0x210 1
      j 0 0) = false := by decide +kernel
  intro j r c hj hr hc
  obtain rfl : r = 0 := by omega
  obtain rfl : c = 0 := by omega
  exact hd j hj

/-- A source at 0x1000 and a destination at 0x2000. -/
theorem witness_move (blocks : List (Nat × List Byte)) (n m : Nat) (sf df : Bool) (hn : n ≤ 0x1000)
    (hm : m ≤ 0x1000) (h : (machine blocks).params.lmemSize = 0x10000) :
    ReadyMove (machine blocks) 0x1000 n sf 0x2000 m df := by
  have h1 : (0x1000#32).toNat = 0x1000 := rfl
  have h2 : (0x2000#32).toNat = 0x2000 := rfl
  refine ⟨⟨?_, ?_⟩, ⟨fun _ => rfl, fun _ => rfl⟩, ?_⟩
  · show (0x1000#32).toNat + n ≤ _
    omega
  · show (0x2000#32).toNat + m ≤ _
    omega
  · show Apart (0x2000#32).toNat m (0x1000#32).toNat n
    exact apart_of_le (by omega)

/-- DIMS(3, 5): planes of 15 and of 2 by 3 samples. -/
theorem witness_subs_and_ups :
    DimsLegal 0x00050003 ∧ 8 * ceilDiv (dimsH 0x00050003) 2 * ceilDiv (dimsW 0x00050003) 2 = 48 ∧
    8 * dimsH 0x00050003 * dimsW 0x00050003 = 120 ∧
    ReadyMove (machine []) 0x1000 120 true 0x2000 48 true ∧
    ReadyMove (machine []) 0x1000 48 true 0x2000 120 true :=
  ⟨by unfold DimsLegal; decide, by decide, by decide,
    witness_move _ _ _ _ _ (by decide) (by decide) rfl, witness_move _ _ _ _ _ (by decide) (by decide) rfl⟩

/-- The three regions of a round trip; UPS may write over SUBS's source. -/
theorem witness_subsample_round_trip :
    ReadyMove (machine []) 0x1000 120 true 0x2000 48 true ∧
    ReadyMove (machine []) 0x2000 48 true 0x1000 120 true :=
  ⟨witness_move _ _ _ _ _ (by decide) (by decide) rfl,
    ⟨by unfold Fits; decide, by unfold Fits; decide⟩,
    ⟨fun _ => by unfold Mult8; decide, fun _ => by unfold Mult8; decide⟩, apart_of_le (by decide)⟩

theorem witness_transform : ReadyMove (machine []) 0x1000 512 true 0x2000 512 true :=
  witness_move _ _ _ _ _ (by decide) (by decide) rfl

/-- A block of zeros at 0x1000. -/
def zeroBlock : State := writeF64s (machine []) 0x1000 (List.replicate 64 f64Zero)

theorem readF64_zeroBlock (k : Nat) (hk : k < 64) : readF64 zeroBlock (0x1000 + 8 * k) = f64Zero := by
  have hl : k < (List.replicate 64 f64Zero).length := by simpa using hk
  exact (readF64_writeF64s (machine []) 0x1000 (List.replicate 64 f64Zero) k hl).trans
    (List.getElem_replicate _)

theorem ready_zeroBlock (m : Nat) (df : Bool) (hm : m ≤ 0x1000) :
    ReadyMove zeroBlock 0x1000 512 true 0x2000 m df := by
  have h2 : (0x2000#32).toNat = 0x2000 := rfl
  refine ⟨⟨by unfold Fits; decide, ?_⟩, ⟨fun _ => rfl, fun _ => rfl⟩, ?_⟩
  · show (0x2000#32).toNat + m ≤ 0x10000
    omega
  · show Apart (0x2000#32).toNat m 0x1000 512
    exact apart_of_le (by omega)

/-- No quotient of zeros is a NaN, with the default tables. -/
theorem quotient_of_zeros (c : Bool) (f : Nat → Nat → F64) (k : Nat) (hk : k < 64)
    (hf : ∀ x < 8, ∀ y < 8, f x y = f64Zero) :
    f64IsNaN (quotientRule (tableOf c (machine [])) f k) = false := by
  have ht : ∀ c : Bool, ∀ k < 64, f64IsNaN (fdiv f64Zero
      (f64OfInt ((tableOf c (machine [])).getD k 1).toNat)) = false := by decide +kernel
  unfold quotientRule
  rw [fdctRule_zero (fun x hx y hy => by rw [hf x hx y hy]; decide) (by omega) (by omega)]
  exact ht c k hk

/-- QUANT of zeros, in both forms. -/
theorem witness_quant (c : Bool) :
    ReadyMove zeroBlock 0x1000 512 true 0x2000 64 false ∧
    ∀ k, k < 64 → f64IsNaN (quotientRule (tableOf c zeroBlock)
      (fun x y => readF64 zeroBlock (0x1000 + 8 * (8 * x + y))) k) = false :=
  ⟨ready_zeroBlock _ _ (by decide), fun k hk =>
    quotient_of_zeros c _ k hk fun x hx y hy => readF64_zeroBlock _ (by omega)⟩

theorem witness_dequant : ReadyMove (machine []) 0x1000 64 false 0x2000 512 true :=
  witness_move _ _ _ _ _ (by decide) (by decide) rfl

/-- QPLANE DIMS(1, 1) of a zero, in both forms: one block, all of it padding but one sample. -/
theorem witness_qplane (c : Bool) :
    DimsLegal 0x00010001 ∧ planeRows c 0x00010001 = 1 ∧ planeCols c 0x00010001 = 1 ∧
    ReadyMove zeroBlock 0x1000 (8 * 1 * 1) true 0x2000 (pad8 1 * pad8 1) false ∧
    ∀ bi bj k, bi < pad8 1 / 8 → bj < pad8 1 / 8 → k < 64 → f64IsNaN (quotientRule (tableOf c zeroBlock)
      (fun x y => paddedSample zeroBlock 0x1000 1 1 (8 * bi + x) (8 * bj + y)) k) = false := by
  refine ⟨by unfold DimsLegal; decide, by cases c <;> decide, by cases c <;> decide, ?_, ?_⟩
  · exact ⟨⟨by unfold Fits; decide, by unfold Fits; decide⟩, ⟨fun _ => rfl, fun _ => rfl⟩,
      apart_of_le (by decide)⟩
  · intro bi bj k _ _ hk
    refine quotient_of_zeros c _ k hk fun x _ y _ => ?_
    have := readF64_zeroBlock 0 (by decide)
    simpa [paddedSample] using this

/-- A NaN sample makes the first quotient a NaN, in a block and in a 1 by 1 plane. -/
theorem witness_nan_quotient (c : Bool) :
    let s := machine [(0x1000, f64Bytes f64NaN)]
    ReadyMove s 0x1000 512 true 0x2000 64 false ∧
    f64IsNaN (quotientRule (tableOf c s) (fun x y => readF64 s (0x1000 + 8 * (8 * x + y))) 0) = true ∧
    ReadyMove s 0x1000 (8 * 1 * 1) true 0x2000 (pad8 1 * pad8 1) false ∧
    f64IsNaN (quotientRule (tableOf c s)
      (fun x y => paddedSample s 0x1000 1 1 (8 * 0 + x) (8 * 0 + y)) 0) = true := by
  refine ⟨witness_move _ _ _ _ _ (by decide) (by decide) rfl, ?_,
    witness_move _ _ _ _ _ (by decide) (by decide) rfl, ?_⟩ <;> cases c <;> decide +kernel

theorem witness_dqplane (c : Bool) :
    DimsLegal 0x00010001 ∧ planeRows c 0x00010001 = 1 ∧ planeCols c 0x00010001 = 1 ∧
    ReadyMove (machine []) 0x1000 (pad8 1 * pad8 1) false 0x2000 (8 * 1 * 1) true :=
  ⟨by unfold DimsLegal; decide, by cases c <;> decide, by cases c <;> decide,
    witness_move _ _ _ _ _ (by decide) (by decide) rfl⟩

/-- Zeros at 0x1000, coefficients at 0x2000, and the samples back over the zeros. -/
theorem witness_zero_block :
    zeroBlock.params.legal = true ∧ ReadyMove zeroBlock 0x1000 512 true 0x2000 64 false ∧
    ReadyMove zeroBlock 0x2000 64 false 0x1000 512 true ∧
    ∀ k, k < 64 → f64IsZero (readF64 zeroBlock (0x1000 + 8 * k)) = true := by
  refine ⟨by decide +kernel, ready_zeroBlock _ _ (by decide), ?_, fun k hk => ?_⟩
  · exact ⟨⟨by unfold Fits; decide, by unfold Fits; decide⟩, ⟨fun _ => rfl, fun _ => rfl⟩,
      apart_of_le (by decide)⟩
  · rw [readF64_zeroBlock k hk]
    decide

/-- A finite datum, a NaN and an infinity. -/
theorem witness_conversions :
    f64Exponent 0x4004000000000000 ≠ 2047 ∧ f64Exponent 0x7FEFFFFFFFFFFFFF ≠ 2047 ∧
    f64IsNaN f64NaN = true ∧ f64IsInf 0xFFF0000000000000 = true := by decide

theorem witness_zigzag : ReadyMove (machine []) 0x1000 64 false 0x2000 64 false :=
  witness_move _ _ _ _ _ (by decide) (by decide) rfl

/-- A plane of 8 by 16 coefficients and its sequence, there and back. -/
theorem witness_serial :
    DimsLegal 0x00100008 ∧
    pad8 (planeRows false 0x00100008) * pad8 (planeCols false 0x00100008) = 128 ∧
    pad8 (planeRows true 0x00200010) * pad8 (planeCols true 0x00200010) = 128 ∧
    ReadyMove (machine []) 0x1000 128 false 0x2000 128 false ∧
    ReadyMove (machine []) 0x2000 128 false 0x1000 128 false :=
  ⟨by unfold DimsLegal; decide, by decide, by decide,
    witness_move _ _ _ _ _ (by decide) (by decide) rfl,
    ⟨by unfold Fits; decide, by unfold Fits; decide⟩, ⟨fun _ => rfl, fun _ => rfl⟩,
    apart_of_le (by decide)⟩

/-- A stream that both sides of the decoding statement take: a pair of no zeros, a pair, a literal. -/
theorem witness_zrl_decoding :
    zrlDecode [0, 0, 0, 2, 9, 7] 3 = some ([0, 0, 9], 5) ∧
    ∀ x ∈ [Token.run 0, .run 2, .literal 9], x.legal = true := by decide

/-- Five values whose code is six bytes: room for six, for eight (the bound), and for five. -/
theorem witness_zrle :
    let s := fun e : Word => streams 0 0 0x3000 e (machine [(0x200, [5, 0, 0, 0xFF, 0])])
    (zrlEncode (readBytes (s 0x3006) 0x200 5)).length = 6 ∧ ReadyZrle (s 0x3006) 0x200 5 ∧
    (0x3000#32).toNat + (3 * (5#32).toNat + 1) / 2 ≤ (0x3008#32).toNat ∧ ReadyZrle (s 0x3008) 0x200 5 ∧
    (0x3005#32).toNat < (0x3000#32).toNat + 6 ∧ ReadyZrle (s 0x3005) 0x200 5 := by
  refine ⟨by decide +kernel, ?_, by decide, ?_, by decide, ?_⟩ <;>
    exact ⟨by unfold Fits; decide, by unfold CursorsSane; decide, apart_of_le (by decide)⟩

/-- A stream of three values, and one that ends in an escape. -/
theorem witness_zrld :
    let s := streams 0x3000 0x3004 0 0 (machine [(0x3000, [7, 0, 2, 9])])
    let t := streams 0x3000 0x3001 0 0 (machine [(0x3000, [0])])
    ReadyZrld s 0x200 3 ∧ zrlDecode (readBytes s 0x3000 4) 3 = some ([7, 0, 0], 3) ∧
    ReadyZrld t 0x200 3 ∧ zrlDecode (readBytes t 0x3000 1) 3 = none := by
  refine ⟨?_, by decide +kernel, ?_, by decide +kernel⟩ <;>
    exact ⟨by unfold Fits; decide, by unfold CursorsSane; decide, apart_of_le (by decide)⟩

/-- ME on a 1 by 9 frame, of two macroblocks, at the largest radius. -/
theorem witness_me : ReadyMe (machine []) 0x100 0x200 0x300 0x400 0x00090001 128 := by
  refine ⟨by unfold DimsLegal; decide, by decide, ⟨by unfold Fits; decide, ?_⟩, ?_, ?_⟩ <;> intro p hp <;>
    simp only [List.mem_cons, List.not_mem_nil, or_false] at hp
  · rcases hp with rfl | rfl | rfl <;> exact ⟨by unfold Fits; decide, by unfold Mult8; decide⟩
  · rcases hp with rfl | rfl | rfl <;> exact apart_of_le (by decide)
  · rcases hp with rfl | rfl <;> exact apart_of_le (by decide)

/-- Compensation of a 1 by 9 frame, luma and chroma, with ME's vectors. -/
theorem witness_compensate (c : Bool) :
    ReadyCompensate (machine []) c 0x200 0x100 0x300 0x400 0x00090001 := by
  refine ⟨by unfold DimsLegal; decide, ⟨by unfold Fits; decide, ?_⟩,
    apart_of_le (by cases c <;> decide), ?_⟩ <;> intro p hp <;>
    simp only [List.mem_cons, List.not_mem_nil, or_false] at hp
  · rcases hp with rfl | rfl | rfl <;> cases c <;>
      exact ⟨by unfold Fits; decide, by unfold Mult8; decide⟩
  · rcases hp with rfl | rfl <;> exact apart_of_le (by cases c <;> decide)

/-- Both sides of R1108 on one machine: the residual at 0x400, PSUB's output at 0x500. -/
theorem witness_me_residual :
    ReadyMe (machine []) 0x100 0x200 0x300 0x400 0x00090001 128 ∧
    ReadyCompensate (machine []) false 0x200 0x100 0x300 0x500 0x00090001 := by
  refine ⟨witness_me, by unfold DimsLegal; decide, ⟨by unfold Fits; decide, ?_⟩,
    apart_of_le (by decide), ?_⟩ <;> intro p hp <;>
    simp only [List.mem_cons, List.not_mem_nil, or_false] at hp
  · rcases hp with rfl | rfl | rfl <;> exact ⟨by unfold Fits; decide, by unfold Mult8; decide⟩
  · rcases hp with rfl | rfl <;> exact apart_of_le (by decide)

/-- Equal planes: zeros at 0x1000 as reference and as target. -/
theorem witness_equal_planes :
    ReadyMe zeroBlock 0x1000 0x1000 0x2000 0x3000 0x00080008 8 ∧
    (∀ k, k < dimsH 0x00080008 * dimsW 0x00080008 →
      readF64 zeroBlock (0x1000 + 8 * k) = readF64 zeroBlock (0x1000 + 8 * k)) ∧
    f64Exponent (readF64 zeroBlock (0x1000 + 8 * 63)) ≠ 2047 := by
  refine ⟨⟨by unfold DimsLegal; decide, by decide, ⟨by unfold Fits; decide, ?_⟩, ?_, ?_⟩,
    fun _ _ => rfl, ?_⟩
  · intro p hp
    simp only [List.mem_cons, List.not_mem_nil, or_false] at hp
    rcases hp with rfl | rfl | rfl <;> exact ⟨by unfold Fits; decide, by unfold Mult8; decide⟩
  · intro p hp
    simp only [List.mem_cons, List.not_mem_nil, or_false] at hp
    rcases hp with rfl | rfl | rfl <;> exact apart_of_le (by decide)
  · intro p hp
    simp only [List.mem_cons, List.not_mem_nil, or_false] at hp
    rcases hp with rfl | rfl <;> exact apart_of_le (by decide)
  · rw [readF64_zeroBlock 63 (by decide)]
    decide

/-- Equal planes of one sample, +∞. -/
theorem witness_equal_planes_infinite :
    let s := machine [(0x1000, [0, 0, 0, 0, 0, 0, 0xF0, 0x7F])]
    ReadyMe s 0x1000 0x1000 0x2000 0x3000 0x00010001 0 ∧ f64IsInf (readF64 s 0x1000) = true := by
  refine ⟨⟨by unfold DimsLegal; decide, by decide, ⟨by unfold Fits; decide, ?_⟩, ?_, ?_⟩,
    by decide +kernel⟩ <;>
  · intro p hp
    simp only [List.mem_cons, List.not_mem_nil, or_false] at hp
    first
    | rcases hp with rfl | rfl | rfl <;> exact ⟨by unfold Fits; decide, by unfold Mult8; decide⟩
    | rcases hp with rfl | rfl | rfl <;> exact apart_of_le (by decide)

/-- One literal between two zeros: the worst case of R1002. -/
theorem witness_zrl_worst :
    (∀ b ∈ [5#8], b ≠ 0) ∧ (zrlEncode [0, 5, 0]).length = (3 * 3 + 1) / 2 := by decide

/-! ## Host software (spec/48_host_sequences.md) -/

/-- R1213: with a gap of 3, frames 0, 3 and 6 of seven are I-frames. -/
theorem test_frame_types :
    (List.range 7).map (fun k => frameType k 3) =
      [.iFrame, .pFrame, .pFrame, .iFrame, .pFrame, .pFrame, .iFrame] := by decide

/-- R1208: the reference is replaced after DONE, and kept after an error, after a reset, and while the
list runs. -/
theorem test_reference_replacement (s : Session) :
    s.afterList { idle with done := true } = s.replaceReference ∧
    s.afterList { idle with err := true, errCode := .malformed } = s ∧
    s.afterList idle = s ∧ s.afterList (machine []) = s := ⟨rfl, rfl, rfl, rfl⟩

/-- R1211: which of the source's errors an error code is. -/
theorem test_error_mapping :
    callErrorOf .dims = some (.source .invalidDimensions) ∧
    callErrorOf .malformed = some (.source .malformedStream) ∧
    callErrorOf .overflow = some (.host .overflow) ∧ callErrorOf .none = none := by decide

/-- R1204, R1207: the I-frame list names no reference plane; the P-frame list reads the session's. -/
theorem test_decompress_reference (b : FrameBuffers) (s : Session) (q : Planes) (start stop : Word) :
    decompressList .iFrame b { s with reference := q } start stop =
      decompressList .iFrame b s start stop ∧
    .padd b.dequant.y s.reference.y b.vec s.spare.y s.dims ∈
      decompressList .pFrame b s start stop := by
  refine ⟨rfl, ?_⟩
  simp [decompressList, decompressP, reconstructList]

/-- R1212: a still-image container of one byte, and one whose dimension is 0. -/
theorem test_still_container :
    readStill (writeStill 2 3 [7]) = .ok (2, 3, [7]) ∧
    readStill (writeStill 0 3 [7]) = .error .invalidDimensions := by decide

/-! ## Slower: whole sums -/

/-- T1: F[0][0] of an impulse. -/
theorem test_fdct :
    fdctEntry (f64OfInt 1 :: List.replicate 63 f64Zero) 0 0 = 0x3FC0000000000001 := by decide +kernel

/-- T9: a DC coefficient of 8. -/
theorem test_idct :
    idctEntry (f64OfInt 8 :: List.replicate 63 f64Zero) 7 7 = 0x3FF0000000000001 := by decide +kernel

/-- Q5: DEQUANT.C of q[0] = 60 gives 127.50000000000003, whose low byte is 02. -/
theorem test_dequantC :
    readByte (after (.dequantC 0x1000 0x2000) (machine [(0x1000, 60 :: List.replicate 63 0)])) 0x2000 = 2
    := by decide +kernel

/-- Q11: DQPLANE DIMS(1, 1) stores one sample. -/
theorem test_dqplane :
    readByte (after (.dqplane 0x1000 0x2000 0x00010001) (machine [(0x1000, 50 :: List.replicate 63 0)]))
      0x2000 = 2 := by decide +kernel

/-- A row of 12 squares, the target three samples on: radius 4 searches at steps 2 and 1 and adopts 2,
then 3 (47_motion.md R1106). -/
theorem test_searchVector :
    searchVector 1 12 (fun _ c => f64OfInt ((c + 3) * (c + 3))) (fun _ c => f64OfInt (c * c))
      (macroblock 1 12 0 0) 4 = (3, 0) := by decide +kernel

end Sys2Proof.Tests
end

section
/-! SUPPORT. The scope rules (spec/00_scope.md): the parameters are constant (R11), and the conversions
to integers follow the exact value (R19 to R21). -/

namespace Sys2Proof.Machine

/-! ## The parameters (R11) -/

@[simp] theorem unspecify_params (s : State) (rs : List Region) :
    (unspecify s rs).params = s.params := by
  rw [unspecify_eq]

@[simp] theorem softReset_params (s : State) : (softReset s).params = s.params := by
  simp [softReset]

theorem BodyFrame.params {f : Footprint} {s t : State} (h : BodyFrame f s t) :
    t.params = s.params := by
  rw [h.fields]

/-- A command is never a fault or a refusal, and it reads the parameters only. -/
theorem exec_next_params (i : Instr) (s : State) :
    ∃ t, exec i s = .next t ∧ t.params = s.params := by
  rcases exec_cases i s with ⟨-, h⟩ | ⟨-, e, -, -, h⟩ | ⟨-, -, ⟨e, -, h⟩ | ⟨t, hf, h⟩⟩
  · exact ⟨_, h, completeHalt_params s⟩
  · exact ⟨_, h, errorHalt_params s e⟩
  · exact ⟨_, h, by simp⟩
  · exact ⟨_, h, by rw [complete_params, hf.params]⟩

theorem engineStep_next_params (s : State) :
    ∃ t, engineStep s = .next t ∧ t.params = s.params := by
  rcases engineStep_cases s with ⟨-, h⟩ | ⟨-, e, h, -⟩ | ⟨-, -, i, h⟩
  · exact ⟨s, h, rfl⟩
  · exact ⟨_, h, errorHalt_params s e⟩
  · rw [h]
    exact exec_next_params i s

theorem hostAccess_params (r : HostReq) (s : State) : (hostAccess r s).params = s.params := by
  rcases hostAccess_cases r s with ⟨-, -, h⟩ | ⟨-, -, -, h⟩ | ⟨v, -, h⟩ | ⟨v, -, h⟩ | ⟨h, -, -⟩
  · simp [h]
  · simp [h]
  · simp [h]
  · simp [h]
  · exact h.params

theorem hostMove_params (m : HostMove) (s : State) : (hostMove m s).params = s.params := by
  cases m with
  | access r => exact hostAccess_params r s
  | rstAssert => rfl
  | rstRelease =>
    cases h : s.inReset <;> simp [hostMove, h]
  | wait => rfl

/-- Settles O12: a held access, a host move and an engine step each give a next state with the same
parameters. -/
theorem params_constant : Obligations.params_constant := by
  intro s
  rcases step_cases s with ⟨r, rest, hidle, -, h⟩ | ⟨-, ⟨-, h⟩ | ⟨rest, -, h⟩ | ⟨m, rest, -, -, h⟩⟩
  · exact ⟨_, h, (KeepsEngine.lmemAccess r (s := { s with held := rest }) hidle).params⟩
  · rw [h]
    exact engineStep_next_params s
  · rw [h]
    exact engineStep_next_params { s with inputs := rest }
  · exact ⟨_, h, hostMove_params m _⟩

/-! ## The classes of a datum -/

theorem f64IsNaN_of_finite {x : F64} (h : f64Exponent x ≠ 2047) : f64IsNaN x = false := by
  simp [f64IsNaN, h]

theorem f64IsInf_of_finite {x : F64} (h : f64Exponent x ≠ 2047) : f64IsInf x = false := by
  simp [f64IsInf, h]

theorem f64IsNaN_of_inf {x : F64} (h : f64IsInf x = true) : f64IsNaN x = false := by
  simp only [f64IsInf, Bool.and_eq_true, beq_iff_eq] at h
  simp [f64IsNaN, h.2]

/-! ## The comparison of toU8 (R21), on exact values -/

theorem flt_iff_key {a b : F64} (ha : f64IsNaN a = false) (hb : f64IsNaN b = false) :
    flt a b = true ↔ f64Key a < f64Key b := by
  simp [flt, ha, hb]

theorem f64Key_of_finite {x : F64} (h : f64Exponent x ≠ 2047) : f64Key x = f64Value x := by
  simp [f64Key, f64IsInf_of_finite h]

theorem f64Key_of_inf {x : F64} (h : f64IsInf x = true) :
    f64Key x = if f64Sign x then -(2 : Int) ^ 2100 else (2 : Int) ^ 2100 := by
  rw [f64Key, if_pos h]

theorem f64Key_zero : f64Key f64Zero = 0 := by decide

/-- 255.0 is exact: 255 times the 2^1074 units of 1. -/
theorem f64Key_255 : f64Key (f64OfInt 255) = 255 * (f64One : Int) := by decide +kernel

theorem f64IsNaN_255 : f64IsNaN (f64OfInt 255) = false := by decide +kernel

theorem flt_zero_iff {x : F64} (h : f64IsNaN x = false) :
    flt x f64Zero = true ↔ f64Key x < 0 := by
  rw [flt_iff_key h (by decide), f64Key_zero]

theorem flt_255_iff {x : F64} (h : f64IsNaN x = false) :
    flt (f64OfInt 255) x = true ↔ 255 * (f64One : Int) < f64Key x := by
  rw [flt_iff_key f64IsNaN_255 h, f64Key_255]

theorem f64One_pos : 0 < f64One := by
  unfold f64One
  positivity

theorem f64One_cast : ((f64One : Nat) : ℚ) = 2 ^ 1074 := by
  rw [f64One, Nat.cast_pow, Nat.cast_ofNat]

/-- Every infinity lies beyond 255.0 in the order of the keys. -/
theorem key_255_lt_infinity : 255 * (f64One : Int) < (2 : Int) ^ 2100 := by decide +kernel

/-! ## The exact rational value of a finite datum -/

theorem f64Value_neg_iff (x : F64) :
    (f64Value x : ℚ) / 2 ^ 1074 < 0 ↔ f64Value x < 0 := by
  rw [div_lt_iff₀ (by positivity), zero_mul, Int.cast_lt_zero]

theorem lt_f64Value_iff (x : F64) :
    255 < (f64Value x : ℚ) / 2 ^ 1074 ↔ 255 * (f64One : Int) < f64Value x := by
  rw [lt_div_iff₀ (by positivity), ← f64One_cast]
  exact_mod_cast Iff.rfl

theorem abs_f64Value (x : F64) : |(f64Value x : ℚ)| = f64Units x := by
  unfold f64Value
  split <;> simp

/-- The integer that rhaz computes is floor(|x| + 1/2). -/
theorem floor_abs_add_half (x : F64) :
    ⌊|(f64Value x : ℚ) / 2 ^ 1074| + 1 / 2⌋ =
      (((2 * f64Units x + f64One) / (2 * f64One) : Nat) : Int) := by
  have hone : (f64One : ℚ) ≠ 0 := by exact_mod_cast f64One_pos.ne'
  have hsum : |(f64Value x : ℚ) / 2 ^ 1074| + 1 / 2 =
      ((2 * f64Units x + f64One : Nat) : ℚ) / ((2 * f64One : Nat) : ℚ) := by
    rw [← f64One_cast, abs_div, abs_f64Value, Nat.abs_cast]
    push_cast
    field_simp
  rw [hsum, Rat.floor_natCast_div_natCast, Int.natCast_ediv]

/-! ## The conversions -/

theorem rhaz_eq (x : F64) :
    rhaz x = (if f64Sign x then -1 else 1) * ⌊|(f64Value x : ℚ) / 2 ^ 1074| + 1 / 2⌋ := by
  rw [floor_abs_add_half, rhaz]
  cases f64Sign x with
  | true => rw [if_pos rfl, if_pos rfl, neg_one_mul]
  | false => rw [if_neg Bool.false_ne_true, if_neg Bool.false_ne_true, one_mul]

theorem toI8_of_nan {x : F64} (h : f64IsNaN x = true) : toI8 x = none := by
  rw [toI8, if_pos h]

theorem toI8_of_inf {x : F64} (h : f64IsInf x = true) :
    toI8 x = some (if f64Sign x then -128 else 127) := by
  simp [toI8, f64IsNaN_of_inf h, h]

theorem toI8_of_finite {x : F64} (h : f64Exponent x ≠ 2047) :
    toI8 x = some (min (max (rhaz x) (-128)) 127) := by
  simp [toI8, f64IsNaN_of_finite h, f64IsInf_of_finite h, clampInt]

theorem toU8_of_nan {x : F64} (h : f64IsNaN x = true) : toU8 x = none := by
  rw [toU8, if_pos h]

/-- toU8 of a datum that is no NaN, by its key. -/
theorem toU8_of_not_nan {x : F64} (h : f64IsNaN x = false) :
    toU8 x = some (if f64Key x < 0 then 0
      else if 255 * (f64One : Int) < f64Key x then 255 else rhaz x) := by
  simp only [toU8, h, Bool.false_eq_true, if_false, flt_zero_iff h, flt_255_iff h]
  split_ifs <;> rfl

theorem toU8_of_inf {x : F64} (h : f64IsInf x = true) :
    toU8 x = some (if f64Sign x then 0 else 255) := by
  have hpos : (0 : Int) < 2 ^ 2100 := Int.pow_pos (by decide)
  rw [toU8_of_not_nan (f64IsNaN_of_inf h), f64Key_of_inf h]
  cases f64Sign x with
  | true => rw [if_pos rfl, if_pos (Int.neg_neg_of_pos hpos), if_pos rfl]
  | false =>
    rw [if_neg Bool.false_ne_true, if_neg hpos.not_gt, if_pos key_255_lt_infinity,
      if_neg Bool.false_ne_true]

theorem toU8_of_finite {x : F64} (h : f64Exponent x ≠ 2047) :
    toU8 x = some (if (f64Value x : ℚ) / 2 ^ 1074 < 0 then 0
      else if 255 < (f64Value x : ℚ) / 2 ^ 1074 then 255 else rhaz x) := by
  rw [toU8_of_not_nan (f64IsNaN_of_finite h), f64Key_of_finite h]
  simp only [f64Value_neg_iff, lt_f64Value_iff]

/-- Settles O45, class by class: the rounding and the bounds are stated on the exact value, the model
computes on units of 2^-1074. -/
theorem conversions : Obligations.conversions := fun x =>
  ⟨fun h => ⟨rhaz_eq x, toI8_of_finite h, toU8_of_finite h⟩,
    fun h => ⟨toI8_of_nan h, toU8_of_nan h⟩,
    fun h => ⟨toI8_of_inf h, toU8_of_inf h⟩⟩

end Sys2Proof.Machine
end

section
/-! SUPPORT. What an access of the host does, by where it goes (spec/10_state.md R102, R103, R118): one
equation per case of the map. -/

namespace Sys2Proof.Machine

/-! ## Where an access goes -/

/-- While rst_n = 0 an access has no effect (70_reset_and_hazards.md R1400). -/
theorem hostAccess_inReset {r : HostReq} {s : State} (h : s.inReset = true) :
    hostAccess r s = reply (if r.we then .ack else .data 0) s := by
  rw [hostAccess, if_pos h]

theorem hostAccess_register {r : HostReq} {s : State} (h : s.inReset = false)
    (ha : r.addr.toNat < 0x1000) : hostAccess r s = regAccess r s := by
  rw [hostAccess, if_neg (by simp [h]), if_pos ha]

theorem inWindow_iff (r : HostReq) (s : State) :
    inWindow r s = true ↔
      0x1000000 ≤ r.addr.toNat ∧ r.addr.toNat < 0x1000000 + s.params.lmemSize := by
  rw [inWindow, Bool.and_eq_true, decide_eq_true_eq, decide_eq_true_eq]
  rfl

/-- The register block lies below the window (R102). -/
theorem not_register_of_inWindow {r : HostReq} {s : State} (hw : inWindow r s = true) :
    ¬ r.addr.toNat < 0x1000 := by
  have := (inWindow_iff r s).1 hw
  omega

theorem hostAccess_busyWindow {r : HostReq} {s : State} (h : s.inReset = false)
    (hw : inWindow r s = true) (hb : s.busy = true) :
    hostAccess r s = { s with held := s.held ++ [r] } := by
  rw [hostAccess, if_neg (by simp [h]), if_neg (not_register_of_inWindow hw), if_pos hw, if_pos hb]

theorem hostAccess_idleWindow {r : HostReq} {s : State} (h : s.inReset = false)
    (hw : inWindow r s = true) (hb : s.busy = false) : hostAccess r s = lmemAccess r s := by
  rw [hostAccess, if_neg (by simp [h]), if_neg (not_register_of_inWindow hw), if_pos hw,
    if_neg (by simp [hb])]

theorem hostAccess_unmapped {r : HostReq} {s : State} (h : s.inReset = false)
    (ha : 0x1000 ≤ r.addr.toNat) (hw : inWindow r s = false) :
    hostAccess r s = reply (if r.we then .ack else .data 0) s := by
  rw [hostAccess, if_neg (by simp [h]), if_neg (by omega), if_neg (by simp [hw])]

/-! ## Accesses to the register block (R103) -/

/-- An ill-sized or unaligned access reaches no register. -/
theorem regAccess_illFormed {r : HostReq} {s : State} (h : regAccessOk r = false) :
    regAccess r s = reply (if r.we then .ack else .data 0) s := by
  cases hw : r.we <;> simp [regAccess, h, hw]

theorem regAccessOk_iff (r : HostReq) :
    regAccessOk r = true ↔ r.size = 2#2 ∧ r.addr.toNat % 4 = 0 := by
  simp [regAccessOk]

theorem regAccess_write {r : HostReq} {s : State} (h : regAccessOk r = true) (hw : r.we = true) :
    regAccess r s = reply .ack (regWrite r.addr.toNat r.wdata s) := by
  simp [regAccess, h, hw]

/-- A read of a register that no draw decides: all of them while idle. -/
theorem regAccess_read {r : HostReq} {s : State} (h : regAccessOk r = true) (hw : r.we = false)
    (hd : s.busy = false ∨ drawnOffset r.addr.toNat = false) :
    regAccess r s = reply (.data (regRead s r.addr.toNat)) s := by
  rcases hd with hd | hd <;> simp [regAccess, h, hw, hd]

/-- A busy read of CP, CMD_COUNT, INP or OUTP takes one draw (R117). -/
theorem regAccess_drawnRead {r : HostReq} {s : State} (h : regAccessOk r = true)
    (hw : r.we = false) (hb : s.busy = true) (hd : drawnOffset r.addr.toNat = true) :
    regAccess r s =
      { reply (.data (regRead s r.addr.toNat)) s with draws := s.draws + 1 } := by
  simp [regAccess, h, hw, hb, hd]

/-! ## The host's turn -/

theorem HostTurn.inReset {s : State} {r : HostReq} {rest : List HostMove} (h : HostTurn s r rest) :
    s.inReset = false := by
  obtain ⟨-, -, hr⟩ := h
  exact hr

/-- On the host's turn the step is the access. -/
theorem step_of_hostTurn {s : State} {r : HostReq} {rest : List HostMove} (h : HostTurn s r rest) :
    step s = .next (hostAccess r { s with inputs := rest }) := by
  obtain ⟨hi, hturn, -⟩ := h
  rcases step_cases s with ⟨q, later, hb, hh, -⟩ | ⟨-, ⟨hn, -⟩ | ⟨later, hw, -⟩ | ⟨m, later, hm, -, hx⟩⟩
  · simp [hb, hh] at hturn
  · simp [hi] at hn
  · simp [hi] at hw
  · obtain ⟨rfl, rfl⟩ := List.cons.inj (hi.symm.trans hm)
    exact hx

theorem step_of_registerAccess {s : State} {r : HostReq} {rest : List HostMove}
    (h : HostTurn s r rest) (ha : r.addr.toNat < 0x1000) :
    step s = .next (regAccess r { s with inputs := rest }) := by
  rw [step_of_hostTurn h, hostAccess_register (s := { s with inputs := rest }) h.inReset ha]

/-- A 4-byte write at an aligned offset of the register block. -/
theorem step_of_regWrite {s : State} {off : BitVec 25} {v : Word} {rest : List HostMove}
    (h : HostTurn s (writeReq off v) rest) (ha : off.toNat < 0x1000) (h4 : off.toNat % 4 = 0) :
    step s = .next (reply .ack (regWrite off.toNat v { s with inputs := rest })) := by
  rw [step_of_registerAccess h ha,
    regAccess_write ((regAccessOk_iff _).2 ⟨rfl, h4⟩) rfl]
  rfl

/-- A 4-byte read at an aligned offset of the register block that no draw decides. -/
theorem step_of_regRead {s : State} {off : BitVec 25} {rest : List HostMove}
    (h : HostTurn s (readReq off) rest) (ha : off.toNat < 0x1000) (h4 : off.toNat % 4 = 0)
    (hd : s.busy = false ∨ drawnOffset off.toNat = false) :
    step s = .next { s with inputs := rest,
                            replies := .data (regRead s off.toNat) :: s.replies } := by
  rw [step_of_registerAccess h ha,
    regAccess_read (s := { s with inputs := rest }) ((regAccessOk_iff _).2 ⟨rfl, h4⟩) rfl hd]
  rfl

end Sys2Proof.Machine
end

section
/-! SUPPORT. The state's invariant (spec/10_state.md R106 to R117): `Legal` is kept by each operation of a
step, part by part, and so by every step. -/

namespace Sys2Proof.Machine

/-! ## LMEM inside LMEM_SIZE (R115) -/

theorem Region.lt_of_contains {r : Region} {a size : Nat} (hr : r.base + r.len ≤ size)
    (h : r.contains a = true) : a < size := by
  have := (contains_iff r a).1 h
  omega

/-- New cells in regions inside LMEM, in canonical form, keep LMEM legal. -/
theorem LmemLegal.of_cells {s t : State} (h : LmemLegal s) (hp : t.params = s.params)
    (hw : t.lmem.wf = true) {rs : List Region}
    (hr : ∀ r ∈ rs, r.base + r.len ≤ s.params.lmemSize)
    (hc : ∀ cell ∈ t.lmem, cell ∈ s.lmem ∨ ∃ r ∈ rs, r.contains cell.1 = true) : LmemLegal t := by
  refine ⟨hw, fun cell hm => ?_⟩
  rw [hp]
  rcases hc cell hm with hs | ⟨r, hrs, hin⟩
  · exact h.2 cell hs
  · exact r.lt_of_contains (hr r hrs) hin

theorem LmemLegal.writeBytes {s : State} (h : LmemLegal s) {base : Nat} {bs : List Byte}
    (hl : base + bs.length ≤ s.params.lmemSize) : LmemLegal (writeBytes s base bs) := by
  refine ⟨wf_write h.1 base bs, fun cell hm => ?_⟩
  rcases mem_write hm with hs | hin
  · exact h.2 cell hs
  · exact hin.2.trans_le hl

theorem LmemLegal.unspecify {s : State} (h : LmemLegal s) {rs : List Region}
    (hr : ∀ r ∈ rs, r.base + r.len ≤ s.params.lmemSize) : LmemLegal (unspecify s rs) :=
  h.of_cells (by rw [unspecify_eq]) (wf_unspecify h.1 rs) hr fun _ => mem_unspecify

theorem LmemLegal.body {f : Footprint} {s t : State} (h : LmemLegal s) (hf : BodyFrame f s t)
    (hr : ∀ r ∈ f.destRegions, r.base + r.len ≤ s.params.lmemSize) : LmemLegal t :=
  h.of_cells hf.params (hf.wf h.1) hr hf.cells

/-- A soft reset leaves bytes unspecified inside LMEM only: the abandoned command's checks passed. -/
theorem abandonedRegions_in_range (s : State) :
    ∀ r ∈ abandonedRegions s, r.base + r.len ≤ s.params.lmemSize := by
  unfold abandonedRegions
  split
  · split
    · simp
    · split
      · simp
      · split
        · simp
        · exact destRegions_in_range _ s ‹_›
  · simp

/-! ## CP, CMD_COUNT and the boundaries (R109, R110, R117) -/

theorem ResetLegal.of_inReset_false {s : State} (h : s.inReset = false) : ResetLegal s :=
  fun hr => absurd hr (by simp [h])

theorem Legal.inReset_of_busy {s : State} (h : Legal s) (hb : s.busy = true) : s.inReset = false := by
  by_contra hr
  have := (h.reset (by simpa using hr)).1
  simp [hb] at this

theorem Legal.lmemSize_le {s : State} (h : Legal s) : s.params.lmemSize ≤ 0x1000000 := by
  have := h.params
  simp only [Params.legal, Bool.and_eq_true, decide_eq_true_eq] at this
  exact this.1.1.2

/-- While busy CP is CLP + 32 · CMD_COUNT: the newest boundary is the registers as they stand. -/
theorem BoundariesLegal.cp_eq {s : State} (h : BoundariesLegal s) (hb : s.busy = true) :
    s.cp = s.clp + 32 * s.cmdCount := by
  obtain ⟨hhead, -, hcp⟩ := h.1 hb
  exact hcp (boundaryNow s) (List.mem_of_mem_head? hhead)

theorem toNat_cp_advance {s : State} (h : Legal s) (hf : s.cp.toNat + 32 ≤ s.params.lmemSize) :
    (s.cp + 32).toNat = s.cp.toNat + 32 := by
  have := h.lmemSize_le
  bv_omega

theorem toNat_cmdCount_advance {s : State} (h : Legal s) (hf : s.cp.toNat + 32 ≤ s.params.lmemSize) :
    (s.cmdCount + 1).toNat = s.cmdCount.toNat + 1 := by
  have := h.lmemSize_le
  have := h.count
  unfold CountLegal at this
  bv_omega

theorem PointersAligned.advance {s : State} (h : Legal s)
    (hf : s.cp.toNat + 32 ≤ s.params.lmemSize) : PointersAligned (advance s) := by
  have hcp := toNat_cp_advance h hf
  obtain ⟨hclp, hmod⟩ := h.pointers
  refine ⟨hclp, ?_⟩
  change (s.cp + 32).toNat % 32 = 0
  omega

theorem CountLegal.advance {s : State} (h : Legal s) (hf : s.cp.toNat + 32 ≤ s.params.lmemSize) :
    CountLegal (advance s) := by
  have hcp := toNat_cp_advance h hf
  have hn := toNat_cmdCount_advance h hf
  have hcount := h.count
  unfold CountLegal at hcount ⊢
  change 32 * (s.cmdCount + 1).toNat ≤ (s.cp + 32).toNat
  omega

/-- The completion's boundary goes on top of those of the running list, one count higher. -/
theorem BoundariesLegal.complete {s t : State} (h : Legal s) (hb : s.busy = true)
    (hf : s.cp.toNat + 32 ≤ s.params.lmemSize) {f : Footprint} (hbody : BodyFrame f s t) :
    BoundariesLegal (complete t) := by
  have hn := toNat_cmdCount_advance h hf
  have hcp := h.boundaries.cp_eq hb
  obtain ⟨-, hcounts, hall⟩ := h.boundaries.1 hb
  rw [hbody.fields]
  refine ⟨fun _ => ⟨rfl, ?_, ?_⟩, fun hidle => absurd (hb.symm.trans hidle) (by decide)⟩
  · change (s.cmdCount + 1).toNat :: s.boundaries.map (fun b => b.cmdCount.toNat) =
      (List.range ((s.cmdCount + 1).toNat + 1)).reverse
    rw [hn, List.range_succ, List.reverse_append, hcounts]
    rfl
  · intro b hmem
    rcases List.mem_cons.1 hmem with rfl | hold
    · change s.cp + 32 = s.clp + 32 * (s.cmdCount + 1)
      rw [hcp, BitVec.mul_add, BitVec.add_assoc]
      rfl
    · exact hall b hold

/-! ## The engine's operations -/

theorem Legal.complete {s t : State} (h : Legal s) (hb : s.busy = true)
    (hfetch : s.cp.toNat + 32 ≤ s.params.lmemSize) {f : Footprint} (hbody : BodyFrame f s t)
    (hr : ∀ r ∈ f.destRegions, r.base + r.len ≤ s.params.lmemSize) : Legal (complete t) where
  params := by rw [complete_params, hbody.params]; exact h.params
  lmem := (h.lmem.body hbody hr :)
  pointers := by rw [hbody.fields]; exact (PointersAligned.advance h hfetch :)
  status := by rw [hbody.fields]; exact h.status
  boundaries := .complete h hb hfetch hbody
  count := by rw [hbody.fields]; exact (CountLegal.advance h hfetch :)
  reset := .of_inReset_false (by rw [hbody.fields]; exact h.inReset_of_busy hb)

theorem Legal.completeHalt {s : State} (h : Legal s) (hb : s.busy = true)
    (hfetch : s.cp.toNat + 32 ≤ s.params.lmemSize) : Legal (completeHalt s) where
  params := h.params
  lmem := h.lmem
  pointers := PointersAligned.advance h hfetch
  status := by
    obtain ⟨-, herr, hcode⟩ := h.status.1 hb
    simp [StatusLegal, herr, hcode]
  boundaries := ⟨fun hbusy => absurd hbusy (by simp), fun _ => rfl⟩
  count := CountLegal.advance h hfetch
  reset := .of_inReset_false (h.inReset_of_busy hb)

/-- The error halt, whatever LMEM holds by then. -/
theorem Legal.errorHalt {s : State} {e : ErrCode} (h : Legal s) (hb : s.busy = true)
    (he : e ≠ .none) {m : Memory} (hm : LmemLegal { s with lmem := m }) (draws : Nat) :
    Legal (errorHalt e { s with lmem := m, draws := draws }) where
  params := h.params
  lmem := hm
  pointers := h.pointers
  status := by
    obtain ⟨hdone, -, -⟩ := h.status.1 hb
    simp [StatusLegal, hdone, he]
  boundaries := ⟨fun hbusy => absurd hbusy (by simp), fun _ => rfl⟩
  count := h.count
  reset := .of_inReset_false (h.inReset_of_busy hb)

theorem executionError_ne_none {i : Instr} {e : ErrCode} (h : executionError i = some e) :
    e ≠ .none := by
  rcases executionError_cases h with rfl | rfl | rfl <;> decide

theorem Legal.exec {s t : State} {i : Instr} (h : Legal s) (hb : s.busy = true)
    (hfetch : s.cp.toNat + 32 ≤ s.params.lmemSize) (hs : exec i s = .next t) : Legal t := by
  rcases exec_cases i s with ⟨-, hx⟩ | ⟨-, e, -, he, hx⟩ | ⟨-, hpass, ⟨e, he, hx⟩ | ⟨u, hu, hx⟩⟩ <;>
    obtain rfl := Host.Outcome.next.inj (hx.symm.trans hs)
  · exact h.completeHalt hb hfetch
  · exact h.errorHalt hb he h.lmem s.draws
  · have hm := h.lmem.unspecify (destRegions_in_range i s hpass)
    rw [unspecify_eq] at hm ⊢
    exact h.errorHalt hb (executionError_ne_none he) hm _
  · exact h.complete hb hfetch hu (destRegions_in_range i s hpass)

theorem Legal.engineStep {s t : State} (h : Legal s) (hs : engineStep s = .next t) : Legal t := by
  rcases engineStep_cases s with ⟨-, hx⟩ | ⟨hb, e, hx, he⟩ | ⟨hb, hfetch, i, hx⟩
  · obtain rfl := Host.Outcome.next.inj (hx.symm.trans hs)
    exact h
  · obtain rfl := Host.Outcome.next.inj (hx.symm.trans hs)
    exact h.errorHalt hb he h.lmem s.draws
  · exact h.exec hb hfetch (hx.symm.trans hs)

/-! ## The host's operations -/

/-- The host's script, its responses and the draw counter are no part of the invariant. -/
theorem Legal.hostSide {s : State} (h : Legal s) (inputs : List HostMove) (replies : List Reply)
    (draws : Nat) : Legal { s with inputs := inputs, replies := replies, draws := draws } :=
  ⟨h.params, h.lmem, h.pointers, h.status, h.boundaries, h.count, h.reset⟩

theorem Legal.reply {s : State} (h : Legal s) (r : Reply) : Legal (reply r s) :=
  h.hostSide s.inputs (r :: s.replies) s.draws

/-- Nor are IRQ_EN and the held accesses, while rst_n = 1. -/
theorem Legal.port {s : State} (h : Legal s) (hr : s.inReset = false) (doneIe errIe : Bool)
    (held : List HostReq) : Legal { s with doneIe := doneIe, errIe := errIe, held := held } :=
  ⟨h.params, h.lmem, h.pointers, h.status, h.boundaries, h.count, .of_inReset_false hr⟩

/-- Every register at its reset value, over a legal LMEM. -/
theorem Legal.resetRegisters {s : State} (hp : s.params.legal = true) (hm : LmemLegal s)
    (hr : s.inReset = true → s.held = [] ∧ s.lmem = []) : Legal (resetRegisters s) where
  params := hp
  lmem := hm
  pointers := ⟨rfl, rfl⟩
  status := by simp [StatusLegal]
  boundaries := ⟨fun hbusy => absurd hbusy (by simp), fun _ => rfl⟩
  count := Nat.le_refl 0
  reset := fun hin => by simpa using hr hin

theorem Legal.softReset {s : State} (h : Legal s) (hr : s.inReset = false) : Legal (softReset s) :=
  .resetRegisters (by simpa using h.params) (h.lmem.unspecify (abandonedRegions_in_range s)) (by
    rw [unspecify_eq]
    exact fun hin => absurd (hr.symm.trans hin) (by decide))

theorem lmemLegal_of_nil {s : State} (h : s.lmem = []) : LmemLegal s := by
  refine ⟨by rw [h]; rfl, fun cell hm => ?_⟩
  rw [h] at hm
  cases hm

theorem Legal.hardReset {s : State} (h : Legal s) (b : Bool) :
    Legal { hardReset s with inReset := b } :=
  have := Legal.resetRegisters (s := { s with lmem := [], held := [], inReset := b }) h.params
    (lmemLegal_of_nil rfl) fun _ => ⟨rfl, rfl⟩
  ⟨this.params, this.lmem, this.pointers, this.status, this.boundaries, this.count, this.reset⟩

theorem Legal.startList {s : State} (h : Legal s) (hr : s.inReset = false) : Legal (startList s) where
  params := h.params
  lmem := h.lmem
  pointers := ⟨h.pointers.1, h.pointers.1⟩
  status := by simp [StatusLegal]
  boundaries := ⟨fun _ => ⟨rfl, rfl, by simp⟩, fun hidle => absurd hidle (by simp)⟩
  count := Nat.zero_le _
  reset := .of_inReset_false hr

theorem Legal.writeStatus {s : State} (h : Legal s) (hr : s.inReset = false) (v : Word) :
    Legal (writeStatus v s) where
  params := h.params
  lmem := h.lmem
  pointers := h.pointers
  status := by
    obtain ⟨hbusy, hboth, hdone, herr⟩ := h.status
    refine ⟨fun hb => ?_, fun hde => hboth ?_, fun hd => hdone ?_, fun he => herr ?_⟩
    · obtain ⟨hd, he, hc⟩ := hbusy hb
      simp [hd, he, hc]
    · simp only [writeStatus_done, writeStatus_err, Bool.and_eq_true] at hde
      exact ⟨hde.1.1, hde.2.1⟩
    · exact (Bool.and_eq_true _ _ ▸ hd).1
    · exact (Bool.and_eq_true _ _ ▸ he).1
  boundaries := h.boundaries
  count := h.count
  reset := .of_inReset_false hr

/-- Bits 4:0 of CLP are hardwired 0 (R107). -/
theorem clpOf_toNat_mod (v : Word) : (clpOf v).toNat % 32 = 0 := by
  rw [clpOf, BitVec.toNat_and]
  exact (Nat.and_mod_two_pow (n := 5)).trans (Nat.and_zero _)

/-- A write to CLP or a cursor of an idle machine: no boundary is recorded that could disagree. -/
theorem Legal.idleWrite {s : State} (h : Legal s) (hr : s.inReset = false) (hb : s.busy = false)
    {clp : Word} (hclp : clp.toNat % 32 = 0) (inp inEnd outp outEnd : Word) :
    Legal { s with clp := clp, inp := inp, inEnd := inEnd, outp := outp, outEnd := outEnd } :=
  ⟨h.params, h.lmem, ⟨hclp, h.pointers.2⟩, h.status,
    ⟨fun hbusy => absurd (hb.symm.trans hbusy) (by decide), h.boundaries.2⟩, h.count,
    .of_inReset_false hr⟩

theorem Legal.writeCtrl {s : State} (h : Legal s) (hr : s.inReset = false) (v : Word) :
    Legal (writeCtrl v s) := by
  unfold Machine.writeCtrl
  split_ifs
  · exact h.softReset hr
  · exact h.startList hr
  · exact h

theorem Legal.regWrite {s : State} (h : Legal s) (hr : s.inReset = false) (off : Nat) (v : Word) :
    Legal (regWrite off v s) := by
  have cursors := fun hb => h.idleWrite hr hb h.pointers.1
  unfold Machine.regWrite
  split_ifs with _ _ _ hb
  · exact h.writeCtrl hr v
  · exact h.writeStatus hr v
  · exact h.port hr _ _ s.held
  · exact h
  · exact h.idleWrite hr (by simpa using hb) (clpOf_toNat_mod v) s.inp s.inEnd s.outp s.outEnd
  · exact cursors (by simpa using hb) v s.inEnd s.outp s.outEnd
  · exact cursors (by simpa using hb) s.inp v s.outp s.outEnd
  · exact cursors (by simpa using hb) s.inp s.inEnd v s.outEnd
  · exact cursors (by simpa using hb) s.inp s.inEnd s.outp v
  · exact h

theorem Legal.regAccess {s : State} (h : Legal s) (hr : s.inReset = false) (r : HostReq) :
    Legal (regAccess r s) := by
  unfold Machine.regAccess
  dsimp only
  split_ifs
  · exact (h.regWrite hr _ _).reply _
  · exact h.reply _
  · exact h.hostSide s.inputs _ _
  · exact h.reply _
  · exact h.reply _

/-- An LMEM access that moves bytes moves 1, 2 or 4, all inside LMEM (R115). -/
theorem lmemAccessBytes_some {r : HostReq} {s : State} {n : Nat}
    (h : lmemAccessBytes r s = some n) :
    accessBytes r.size = some n ∧ (r.addr.toNat - windowBase) % n = 0 ∧
      r.addr.toNat - windowBase + n ≤ s.params.lmemSize := by
  unfold lmemAccessBytes at h
  split at h
  · cases h
  · rename_i m hm
    simp only [Option.ite_none_right_eq_some, Option.some.injEq] at h
    obtain ⟨⟨ha, hl⟩, rfl⟩ := h
    exact ⟨hm, ha, hl⟩

theorem Legal.lmemAccess {s : State} (h : Legal s) (hr : s.inReset = false) (r : HostReq) :
    Legal (lmemAccess r s) := by
  unfold Machine.lmemAccess
  dsimp only
  split
  · exact h.reply _
  · rename_i n hn
    split
    · obtain ⟨-, -, hl⟩ := lmemAccessBytes_some hn
      have hw : LmemLegal (writeBytes s (r.addr.toNat - windowBase) ((wordBytes r.wdata).take n)) :=
        h.lmem.writeBytes (by rw [List.length_take]; omega)
      exact Legal.reply (s := writeBytes s _ _) ⟨h.params, hw, h.pointers, h.status, h.boundaries,
        h.count, .of_inReset_false hr⟩ _
    · exact h.reply _

theorem Legal.hostAccess {s : State} (h : Legal s) (r : HostReq) : Legal (hostAccess r s) := by
  cases hr : s.inReset with
  | true => rw [hostAccess_inReset hr]; exact h.reply _
  | false =>
    by_cases ha : r.addr.toNat < 0x1000
    · rw [hostAccess_register hr ha]; exact h.regAccess hr r
    · cases hw : inWindow r s with
      | false => rw [hostAccess_unmapped hr (by omega) hw]; exact h.reply _
      | true =>
        cases hb : s.busy with
        | true => rw [hostAccess_busyWindow hr hw hb]; exact h.port hr s.doneIe s.errIe _
        | false => rw [hostAccess_idleWindow hr hw hb]; exact h.lmemAccess hr r

theorem Legal.hostMove {s : State} (h : Legal s) (m : HostMove) : Legal (hostMove m s) := by
  cases m with
  | access r => exact h.hostAccess r
  | rstAssert => exact h.hardReset true
  | rstRelease =>
    unfold Machine.hostMove
    dsimp only
    split
    · exact h.hardReset false
    · exact h
  | wait => exact h

/-- No access is held while rst_n = 0, so a held access that comes first is one of a running CORE. -/
theorem Legal.inReset_of_held {s : State} {r : HostReq} {rest : List HostReq} (h : Legal s)
    (hh : s.held = r :: rest) : s.inReset = false := by
  by_contra hin
  obtain ⟨-, -, -, -, -, -, -, -, -, -, -, -, -, hheld, -⟩ := h.reset (by simpa using hin)
  simp [hh] at hheld

/-- Settles O8, by the four things a step can be: a held access, an engine step (with or without a
`wait` of the host), and a move of the host. -/
theorem step_keeps_legal : Obligations.step_keeps_legal := by
  intro s t h hs
  rcases step_cases s with ⟨r, rest, -, hh, hx⟩ | ⟨-, ⟨-, hx⟩ | ⟨rest, -, hx⟩ | ⟨m, rest, -, -, hx⟩⟩
  · obtain rfl := Host.Outcome.next.inj (hx.symm.trans hs)
    have hr := h.inReset_of_held hh
    exact (h.port hr s.doneIe s.errIe rest).lmemAccess hr r
  · exact h.engineStep (hx.symm.trans hs)
  · exact (h.hostSide rest s.replies s.draws).engineStep (hx.symm.trans hs)
  · obtain rfl := Host.Outcome.next.inj (hx.symm.trans hs)
    exact (h.hostSide rest s.replies s.draws).hostMove m

end Sys2Proof.Machine
end

section
/-! SUPPORT. What sets and clears BUSY, DONE and ERR (spec/10_state.md R106, spec/60_exceptions.md
R1300). -/

namespace Sys2Proof.Machine

/-- How STATUS may change from s to t, where `reset`, `start` and `wrote b` say what the host did. -/
structure StatusChanges (reset start : Prop) (wrote : Nat → Prop) (s t : State) : Prop where
  busyRises : s.busy = false → t.busy = true → start
  busyFalls : s.busy = true → t.busy = false → t.done = true ∨ t.err = true ∨ reset
  doneRises : s.done = false → t.done = true → s.busy = true ∧ t.busy = false ∧ Advanced s t
  errRises  : s.err = false → t.err = true →
    s.busy = true ∧ t.busy = false ∧ t.cp = s.cp ∧ t.errCode ≠ .none
  doneFalls : s.done = true → t.done = false → wrote 1 ∨ start ∨ reset
  errFalls  : s.err = true → t.err = false → wrote 2 ∨ start ∨ reset

section
variable {reset start : Prop} {wrote : Nat → Prop} {s t : State}

/-- A response is no part of STATUS. -/
theorem StatusChanges.reply (h : StatusChanges reset start wrote s t) (r : Reply) :
    StatusChanges reset start wrote s (reply r t) :=
  ⟨h.busyRises, h.busyFalls, h.doneRises, h.errRises, h.doneFalls, h.errFalls⟩

/-- Nor is the host's script. -/
theorem StatusChanges.of_inputs {inputs : List HostMove}
    (h : StatusChanges reset start wrote { s with inputs := inputs } t) :
    StatusChanges reset start wrote s t :=
  ⟨h.busyRises, h.busyFalls, h.doneRises, h.errRises, h.doneFalls, h.errFalls⟩

theorem StatusChanges.of_same (h : SameStatus s t) : StatusChanges reset start wrote s t := by
  obtain ⟨hb, hd, he, -⟩ := h
  constructor <;> simp +contextual [hb, hd, he]

theorem StatusChanges.of_errorHalted {e : ErrCode} (hb : s.busy = true) (he : e ≠ .none)
    (h : ErrorHalted e s t) : StatusChanges reset start wrote s t where
  busyRises hidle := absurd (hb.symm.trans hidle) (by decide)
  busyFalls _ _ := .inr (.inl h.err)
  doneRises h0 h1 := absurd (h1.symm.trans (h.done.trans h0)) (by decide)
  errRises _ _ := ⟨hb, h.busy, h.cp, by rw [h.code]; exact he⟩
  doneFalls h1 h0 := absurd (h0.symm.trans (h.done.trans h1)) (by decide)
  errFalls _ h0 := absurd (h0.symm.trans h.err) (by decide)

theorem StatusChanges.of_halt (hb : s.busy = true) :
    StatusChanges reset start wrote s (completeHalt s) where
  busyRises hidle := absurd (hb.symm.trans hidle) (by decide)
  busyFalls _ _ := .inl rfl
  doneRises _ _ := ⟨hb, rfl, rfl, rfl⟩
  errRises h0 h1 := absurd (h1.symm.trans h0) (by decide)
  doneFalls _ h0 := absurd h0 (by simp)
  errFalls h1 h0 := absurd (h0.symm.trans h1) (by decide)

/-- A reset, with every status bit 0. -/
theorem StatusChanges.of_reset (h : reset) (hb : t.busy = false) (hd : t.done = false)
    (he : t.err = false) : StatusChanges reset start wrote s t where
  busyRises _ h1 := absurd (h1.symm.trans hb) (by decide)
  busyFalls _ _ := .inr (.inr h)
  doneRises _ h1 := absurd (h1.symm.trans hd) (by decide)
  errRises _ h1 := absurd (h1.symm.trans he) (by decide)
  doneFalls _ _ := .inr (.inr h)
  errFalls _ _ := .inr (.inr h)

theorem StatusChanges.of_start (h : start) (hb : s.busy = false) :
    StatusChanges reset start wrote s (startList s) where
  busyRises _ _ := h
  busyFalls h1 := absurd (h1.symm.trans hb) (by decide)
  doneRises _ h1 := absurd h1 (by simp)
  errRises _ h1 := absurd h1 (by simp)
  doneFalls _ _ := .inr (.inl h)
  errFalls _ _ := .inr (.inl h)

/-- A write to STATUS clears a bit only where it has a 1 (R104, W1C). -/
theorem StatusChanges.of_writeStatus {v : Word} (h : ∀ b, v.getLsbD b = true → wrote b) :
    StatusChanges reset start wrote s (writeStatus v s) where
  busyRises h0 h1 := absurd (h1.symm.trans h0) (by decide)
  busyFalls h1 h0 := absurd (h0.symm.trans h1) (by decide)
  doneRises h0 h1 := by simp [h0] at h1
  errRises h0 h1 := by simp [h0] at h1
  doneFalls h1 h0 := .inl (h 1 (by simpa [h1] using h0))
  errFalls h1 h0 := .inl (h 2 (by simpa [h1] using h0))

theorem StatusChanges.of_exec {i : Instr} (hb : s.busy = true) (h : exec i s = .next t) :
    StatusChanges reset start wrote s t := by
  rcases exec_cases i s with ⟨-, hx⟩ | ⟨-, e, -, he, hx⟩ | ⟨-, -, ⟨e, he, hx⟩ | ⟨u, hu, hx⟩⟩ <;>
    obtain rfl := Host.Outcome.next.inj (hx.symm.trans h)
  · exact .of_halt hb
  · exact .of_errorHalted hb he (errorHalted_self e s)
  · exact .of_errorHalted hb (executionError_ne_none he) (errorHalted_unspecify e s _)
  · exact .of_same (completed_of_frame hu).status

theorem StatusChanges.of_engineStep (h : engineStep s = .next t) :
    StatusChanges reset start wrote s t := by
  rcases engineStep_cases s with ⟨-, hx⟩ | ⟨hb, e, hx, he⟩ | ⟨hb, -, i, hx⟩
  · obtain rfl := Host.Outcome.next.inj (hx.symm.trans h)
    exact .of_same ⟨rfl, rfl, rfl, rfl⟩
  · obtain rfl := Host.Outcome.next.inj (hx.symm.trans h)
    exact .of_errorHalted hb he (errorHalted_self e s)
  · exact .of_exec hb (hx.symm.trans h)

theorem StatusChanges.of_hostAccess (r : HostReq) (hreset : isSrst r → reset)
    (hstart : isStart r → s.busy = false → start)
    (hwrote : ∀ b v, r = writeReq 0x008 v → v.getLsbD b = true → wrote b) :
    StatusChanges reset start wrote s (hostAccess r s) := by
  rcases hostAccess_cases r s with ⟨-, hr, hx⟩ | ⟨-, hr, hb, hx⟩ | ⟨v, hr, hx⟩ | ⟨v, -, hx⟩ | ⟨hk, -⟩
  · rw [hx]
    exact .of_reset (hreset hr) rfl rfl rfl
  · rw [hx]
    exact (of_start (hstart hr hb) hb).reply _
  · rw [hx]
    exact (of_writeStatus fun b => hwrote b v hr).reply _
  · rw [hx]
    exact .of_same ⟨rfl, rfl, rfl, rfl⟩
  · exact .of_same hk.status

end

/-- Settles O11: what each kind of step does to STATUS, with the host's move as the cause where there
is one. -/
theorem status_changes : Obligations.status_changes := by
  intro s t hs reset start wrote
  suffices h : StatusChanges reset start wrote s t from
    ⟨h.busyRises, h.busyFalls, h.doneRises, h.errRises, h.doneFalls, h.errFalls⟩
  rcases step_cases s with ⟨r, rest, hb, -, hx⟩ | ⟨-, ⟨-, hx⟩ | ⟨rest, -, hx⟩ | ⟨m, rest, hm, hw, hx⟩⟩
  · obtain rfl := Host.Outcome.next.inj (hx.symm.trans hs)
    exact .of_same (KeepsEngine.lmemAccess r (s := { s with held := rest }) hb).status
  · exact .of_engineStep (hx.symm.trans hs)
  · exact .of_inputs (.of_engineStep (hx.symm.trans hs))
  · obtain rfl := Host.Outcome.next.inj (hx.symm.trans hs)
    cases m with
    | access r =>
      exact .of_inputs (.of_hostAccess r (fun hr => ⟨_, rest, hm, .inr (.inr ⟨r, rfl, hr⟩)⟩)
        (fun hr hb => ⟨r, rest, hm, hr, hb⟩) (fun b v hr hv => ⟨v, rest, hr ▸ hm, hv⟩))
    | rstAssert => exact .of_reset ⟨_, rest, hm, .inl rfl⟩ rfl rfl rfl
    | rstRelease =>
      unfold hostMove
      dsimp only
      split
      · exact .of_reset ⟨_, rest, hm, .inr (.inl rfl)⟩ rfl rfl rfl
      · exact .of_same ⟨rfl, rfl, rfl, rfl⟩
    | wait => exact absurd rfl hw

end Sys2Proof.Machine
end

section
/-! SUPPORT. The register block (spec/10_state.md R103 to R107, R112, R113, R116, R117): what a read of
each register returns, and what a write to each does. -/

namespace Sys2Proof.Machine

/-! ## Values of the registers (R104) -/

theorem statusWord_eq (s : State) :
    statusWord s = BitVec.ofNat 32 ((if s.busy then 1 else 0) + (if s.done then 2 else 0) +
      (if s.err then 4 else 0)) := by
  unfold statusWord
  cases s.busy <;> cases s.done <;> cases s.err <;> rfl

theorem irqEnWord_eq (s : State) :
    irqEnWord s = BitVec.ofNat 32 ((if s.doneIe then 2 else 0) + (if s.errIe then 4 else 0)) := by
  unfold irqEnWord
  cases s.doneIe <;> cases s.errIe <;> rfl

theorem errCodeWord_eq (s : State) : errCodeWord s = BitVec.ofNat 32 s.errCode.code.toNat := by
  unfold errCodeWord
  cases s.errCode <;> rfl

theorem seenBoundary_idle {s : State} (h : s.busy = false) : seenBoundary s = boundaryNow s := by
  rw [seenBoundary, if_neg (by simp [h])]

/-- A busy machine's boundary is one the running list has reached (R117). -/
theorem seenBoundary_mem {s : State} (hb : s.busy = true) (h : s.boundaries ≠ []) :
    seenBoundary s ∈ s.boundaries := by
  have hlt := Nat.mod_lt (Config.freeIndex s.draws) (List.length_pos_iff.2 h)
  rw [seenBoundary, if_pos hb, List.getD_eq_getElem _ _ hlt]
  exact List.getElem_mem hlt

/-- While busy START's boundary at least has been reached. -/
theorem Legal.boundaries_ne_nil {s : State} (h : Legal s) (hb : s.busy = true) :
    s.boundaries ≠ [] := by
  obtain ⟨hhead, -, -⟩ := h.boundaries.1 hb
  rintro hnil
  simp [hnil] at hhead

/-- The four registers that a busy read draws. -/
theorem drawnOffset_iff (off : BitVec 25) :
    drawnOffset off.toNat = true ↔ off ∈ [0x014#25, 0x01C#25, 0x020#25, 0x028#25] := by
  simp [drawnOffset, ← BitVec.toNat_inj, or_assoc]

/-- Past LMEM_SIZE the register block holds the tables' windows and unlisted offsets. -/
theorem regRead_above (s : State) {off : Nat} (h : 0x034 ≤ off) :
    regRead s off =
      if 0x100 ≤ off ∧ off < 0x140 then qtabWord s.params.qtabLuma ((off - 0x100) / 4)
      else if 0x140 ≤ off ∧ off < 0x180 then qtabWord s.params.qtabChroma ((off - 0x140) / 4)
      else 0 := by
  unfold regRead
  iterate 13 rw [if_neg (by omega)]

theorem regRead_luma (s : State) {j : Nat} (h : j < 16) :
    regRead s (0x100 + 4 * j) = qtabWord s.params.qtabLuma j := by
  rw [regRead_above s (by omega), if_pos (by omega)]
  congr 1
  omega

theorem regRead_chroma (s : State) {j : Nat} (h : j < 16) :
    regRead s (0x140 + 4 * j) = qtabWord s.params.qtabChroma j := by
  rw [regRead_above s (by omega), if_neg (by omega), if_pos (by omega)]
  congr 1
  omega

/-- Offsets the map does not list read 0 (R103). -/
theorem regRead_unlisted (s : State) {off : Nat}
    (h : (0x034 ≤ off ∧ off < 0x100) ∨ 0x180 ≤ off) : regRead s off = 0 := by
  rw [regRead_above s (by omega), if_neg (by omega), if_neg (by omega)]

/-- Settles O18, register by register; the two windows by their entries. -/
theorem register_reads : Obligations.register_reads := by
  intro s off v rest h hidle hv
  have hd : s.busy = false ∨ drawnOffset off.toNat = false := by
    rwa [← Bool.not_eq_true (drawnOffset _), drawnOffset_iff]
  suffices hread : off.toNat < 0x1000 ∧ off.toNat % 4 = 0 ∧ regRead s off.toNat = v by
    obtain ⟨ha, h4, rfl⟩ := hread
    exact step_of_regRead h ha h4 hd
  rcases hv with hv | ⟨j, hj, T, hT, rfl⟩
  · simp only [List.mem_cons, Prod.mk.injEq, List.not_mem_nil, or_false] at hv
    have drawn (hmem : off ∈ [0x014#25, 0x01C#25, 0x020#25, 0x028#25]) :
        seenBoundary s = boundaryNow s :=
      seenBoundary_idle (hidle.resolve_right fun hn => hn hmem)
    rcases hv with ⟨rfl, rfl⟩ | ⟨rfl, rfl⟩ | ⟨rfl, rfl⟩ | ⟨rfl, rfl⟩ | ⟨rfl, rfl⟩ | ⟨rfl, rfl⟩ |
      ⟨rfl, rfl⟩ | ⟨rfl, rfl⟩ | ⟨rfl, rfl⟩ | ⟨rfl, rfl⟩ | ⟨rfl, rfl⟩ | ⟨rfl, rfl⟩ | ⟨rfl, rfl⟩ <;>
      refine ⟨by decide, by decide, ?_⟩
    · rfl
    · rfl
    · exact statusWord_eq s
    · exact irqEnWord_eq s
    · rfl
    · exact congrArg Boundary.cp (drawn (by decide))
    · exact errCodeWord_eq s
    · exact congrArg Boundary.cmdCount (drawn (by decide))
    · exact congrArg Boundary.inp (drawn (by decide))
    · rfl
    · exact congrArg Boundary.outp (drawn (by decide))
    · rfl
    · rfl
  · simp only [List.mem_cons, Prod.mk.injEq, List.not_mem_nil, or_false] at hT
    rcases hT with ⟨ho, rfl⟩ | ⟨ho, rfl⟩ <;> rw [ho] <;> refine ⟨by omega, by omega, ?_⟩
    · exact regRead_luma s hj
    · exact regRead_chroma s hj

/-- Settles O24: the draw picks an index below the number of boundaries reached. -/
theorem busy_reads_see_a_boundary : Obligations.busy_reads_see_a_boundary := by
  intro s off field rest hlegal h hb hoff
  refine ⟨seenBoundary s, seenBoundary_mem hb (hlegal.boundaries_ne_nil hb), ?_⟩
  suffices hread : off.toNat < 0x1000 ∧ off.toNat % 4 = 0 ∧ drawnOffset off.toNat = true ∧
      regRead s off.toNat = field (seenBoundary s) by
    obtain ⟨ha, h4, hd, hv⟩ := hread
    rw [step_of_registerAccess h ha, regAccess_drawnRead (s := { s with inputs := rest })
      ((regAccessOk_iff _).2 ⟨rfl, h4⟩) rfl hb hd, ← hv]
    rfl
  rcases hoff with ⟨rfl, rfl⟩ | ⟨rfl, rfl⟩ | ⟨rfl, rfl⟩ | ⟨rfl, rfl⟩ <;>
    exact ⟨by decide, by decide, by decide, rfl⟩

/-! ## Writes (R104, R105, R116) -/

theorem regWrite_status (v : Word) (s : State) : regWrite 0x008 v s = writeStatus v s := rfl

theorem regWrite_irqEn (v : Word) (s : State) : regWrite 0x00C v s = writeIrqEn v s := rfl

section
variable {s : State} (h : s.busy = false) (v : Word)
include h

theorem regWrite_clp : regWrite 0x010 v s = { s with clp := clpOf v } := by simp [regWrite, h]
theorem regWrite_inp : regWrite 0x020 v s = { s with inp := v } := by simp [regWrite, h]
theorem regWrite_inEnd : regWrite 0x024 v s = { s with inEnd := v } := by simp [regWrite, h]
theorem regWrite_outp : regWrite 0x028 v s = { s with outp := v } := by simp [regWrite, h]
theorem regWrite_outEnd : regWrite 0x02C v s = { s with outEnd := v } := by simp [regWrite, h]

end

/-- The registers of the map that take a write. -/
def writableOffsets : List (BitVec 25) :=
  [0x004#25, 0x008#25, 0x00C#25, 0x010#25, 0x020#25, 0x024#25, 0x028#25, 0x02C#25]

/-- A write to a read-only or unlisted offset does nothing (R103). -/
theorem regWrite_of_not_writable {off : BitVec 25} (h : off ∉ writableOffsets) (v : Word)
    (s : State) : regWrite off.toNat v s = s := by
  simp only [writableOffsets, List.mem_cons, List.not_mem_nil, or_false, not_or,
    ← BitVec.toNat_inj, BitVec.toNat_ofNat, Nat.reducePow, Nat.reduceMod] at h
  obtain ⟨h1, h2, h3, h4, h5, h6, h7, h8⟩ := h
  rw [regWrite, if_neg h1, if_neg h2, if_neg h3, if_neg h4, if_neg h5, if_neg h6, if_neg h7,
    if_neg h8, ite_self]

/-- Settles O19, register by register. -/
theorem register_writes : Obligations.register_writes := by
  intro s off v rest h u
  have at_offset {k : BitVec 25} {w : State} (ho : off = k) (ha : k.toNat < 0x1000)
      (h4 : k.toNat % 4 = 0) (hw : regWrite k.toNat v { s with inputs := rest } = w) :
      step s = .next (reply .ack w) := by
    subst ho hw
    exact step_of_regWrite h ha h4
  refine ⟨fun ho => ?_, fun ho => ?_, fun hb ho => ?_, fun hb ho => ?_, fun hb ho => ?_,
    fun hb ho => ?_, fun hb ho => ?_, fun ha hn => ?_⟩
  · exact at_offset ho (by decide) (by decide) (regWrite_status v _)
  · exact at_offset ho (by decide) (by decide) (regWrite_irqEn v _)
  · exact at_offset ho (by decide) (by decide) (regWrite_clp (s := { s with inputs := rest }) hb v)
  · exact at_offset ho (by decide) (by decide) (regWrite_inp (s := { s with inputs := rest }) hb v)
  · exact at_offset ho (by decide) (by decide) (regWrite_inEnd (s := { s with inputs := rest }) hb v)
  · exact at_offset ho (by decide) (by decide) (regWrite_outp (s := { s with inputs := rest }) hb v)
  · exact at_offset ho (by decide) (by decide) (regWrite_outEnd (s := { s with inputs := rest }) hb v)
  · by_cases h4 : off.toNat % 4 = 0
    · rw [step_of_regWrite h ha h4, regWrite_of_not_writable hn]
      rfl
    · rw [step_of_registerAccess h ha, regAccess_illFormed (by
        rw [← Bool.not_eq_true, regAccessOk_iff]
        exact fun hok => h4 hok.2)]
      rfl

/-! ## CTRL (R105) -/

theorem writeCtrl_srst {v : Word} (h : v.getLsbD 1 = true) (s : State) :
    writeCtrl v s = softReset s := by
  rw [writeCtrl, if_pos h]

theorem writeCtrl_start {v : Word} {s : State} (hr : v.getLsbD 1 = false)
    (h : v.getLsbD 0 = true) (hb : s.busy = false) : writeCtrl v s = startList s := by
  rw [writeCtrl, hr, h, hb]
  rfl

theorem writeCtrl_nothing {v : Word} {s : State} (hr : v.getLsbD 1 = false)
    (h : s.busy = true ∨ v.getLsbD 0 = false) : writeCtrl v s = s := by
  have hstart : (v.getLsbD 0 && !s.busy) = false := by
    rcases h with h | h <;> rw [h]
    · exact Bool.and_false _
    · rfl
  rw [writeCtrl, hr, hstart]
  rfl

/-- Settles O15, by the three things a write to CTRL can be. -/
theorem ctrl_write : Obligations.ctrl_write := by
  intro s v rest h
  have hx : step s = .next (reply .ack (writeCtrl v { s with inputs := rest })) :=
    step_of_regWrite h (by decide) (by decide)
  refine ⟨fun hr => ?_, fun hb hr hstart => ?_, fun hn hr => ?_⟩
  · rw [writeCtrl_srst hr] at hx
    exact ⟨_, hx, rfl, rfl, rfl, rfl, rfl⟩
  · rw [writeCtrl_start (s := { s with inputs := rest }) hr hstart hb] at hx
    exact ⟨_, hx, rfl, rfl, rfl, rfl, rfl, rfl, rfl, rfl, rfl, ⟨rfl, rfl⟩, ⟨rfl, rfl⟩,
      fun _ => rfl, rfl, rfl, rfl, rfl⟩
  · rw [writeCtrl_nothing (s := { s with inputs := rest }) hr hn] at hx
    exact hx

/-! ## Accesses that reach nothing (R102, R103) -/

theorem regAccess_unlistedRead {r : HostReq} {s : State} (hw : r.we = false)
    (ha : (0x034 ≤ r.addr.toNat ∧ r.addr.toNat < 0x100) ∨ 0x180 ≤ r.addr.toNat) :
    regAccess r s = reply (.data 0) s := by
  cases hok : regAccessOk r with
  | false => rw [regAccess_illFormed hok, if_neg (by simp [hw])]
  | true =>
    have hd : drawnOffset r.addr.toNat = false := by
      simp only [drawnOffset, Bool.or_eq_false_iff, beq_eq_false_iff_ne]
      omega
    rw [regAccess_read hok hw (.inr hd), regRead_unlisted s ha]

/-- Settles O20: the access reaches no register, or lies outside the register block and the window. -/
theorem other_accesses_do_nothing : Obligations.other_accesses_do_nothing := by
  intro s r rest h hcases
  suffices hx : hostAccess r { s with inputs := rest } =
      reply (if r.we then .ack else .data 0) { s with inputs := rest } by
    rw [step_of_hostTurn h, hx]
    rfl
  have register (ha : r.addr.toNat < 0x1000) :=
    hostAccess_register (s := { s with inputs := rest }) h.inReset ha
  have unmapped (ha : 0x1000 ≤ r.addr.toNat) (hw : ¬ (0x1000000 ≤ r.addr.toNat ∧
      r.addr.toNat < 0x1000000 + s.params.lmemSize)) :=
    hostAccess_unmapped (s := { s with inputs := rest }) h.inReset ha
      (by rw [← Bool.not_eq_true, inWindow_iff]; exact hw)
  rcases hcases with ⟨ha, hbad⟩ | ⟨ha, hb⟩ | ha | ⟨hw, ha, hb⟩ | ⟨hw, ha, hb⟩
  · rw [register ha, regAccess_illFormed]
    rw [← Bool.not_eq_true, regAccessOk_iff]
    tauto
  · exact unmapped ha (by omega)
  · exact unmapped (by omega) (by omega)
  · rw [register (by omega), regAccess_unlistedRead hw (.inl ⟨ha, hb⟩), if_neg (by simp [hw])]
  · rw [register hb, regAccess_unlistedRead hw (.inr ha), if_neg (by simp [hw])]

end Sys2Proof.Machine
end

section
/-! SUPPORT. The LMEM window and accesses while busy (spec/10_state.md R115, R116, R118). -/

namespace Sys2Proof.Machine

/-! ## Bytes of a word (spec/20_memory.md R200) -/

/-- Byte k of the word of four bytes. -/
theorem extract_wordOfBytes (b0 b1 b2 b3 : Byte) {k : Nat} (hk : k < 4) :
    (wordOfBytes b0 b1 b2 b3).extractLsb' (8 * k) 8 = [b0, b1, b2, b3].getD k 0 := by
  unfold wordOfBytes
  interval_cases k
  · exact (BitVec.extractLsb'_append_eq_of_add_le (by decide)).trans BitVec.extractLsb'_eq_self
  · exact (BitVec.extractLsb'_append_eq_of_le (by decide)).trans
      ((BitVec.extractLsb'_append_eq_of_add_le (by decide)).trans BitVec.extractLsb'_eq_self)
  · exact (BitVec.extractLsb'_append_eq_of_le (by decide)).trans
      ((BitVec.extractLsb'_append_eq_of_le (by decide)).trans
      ((BitVec.extractLsb'_append_eq_of_add_le (by decide)).trans BitVec.extractLsb'_eq_self))
  · exact (BitVec.extractLsb'_append_eq_of_le (by decide)).trans
      ((BitVec.extractLsb'_append_eq_of_le (by decide)).trans
      ((BitVec.extractLsb'_append_eq_of_le (by decide)).trans BitVec.extractLsb'_eq_self))

theorem getElem_wordBytes (w : Word) {k : Nat} (hk : k < (wordBytes w).length) :
    (wordBytes w)[k] = w.extractLsb' (8 * k) 8 := by
  rw [length_wordBytes] at hk
  interval_cases k <;> rfl

/-! ## The size of an access (R101, R115) -/

/-- The three sizes that are not reserved, with the bytes each moves. -/
theorem accessBytes_of_mem {size : BitVec 2} {n : Nat}
    (h : (size, n) ∈ [(0#2, 1), (1#2, 2), (2#2, 4)]) : accessBytes size = some n := by
  simp only [List.mem_cons, Prod.mk.injEq, List.not_mem_nil, or_false] at h
  rcases h with ⟨rfl, rfl⟩ | ⟨rfl, rfl⟩ | ⟨rfl, rfl⟩ <;> rfl

theorem accessBytes_cases {size : BitVec 2} {n : Nat} (h : accessBytes size = some n) :
    n = 1 ∨ n = 2 ∨ n = 4 := by
  unfold accessBytes at h
  split_ifs at h <;> cases h <;> simp

theorem lmemAccessBytes_eq_some {r : HostReq} {s : State} {n : Nat}
    (hn : accessBytes r.size = some n) (ha : (r.addr.toNat - windowBase) % n = 0)
    (hl : r.addr.toNat - windowBase + n ≤ s.params.lmemSize) : lmemAccessBytes r s = some n := by
  rw [lmemAccessBytes, hn]
  exact if_pos ⟨ha, hl⟩

theorem lmemAccessBytes_reserved {r : HostReq} {s : State} (h : r.size = 3#2) :
    lmemAccessBytes r s = none := by
  rw [lmemAccessBytes, h]
  rfl

theorem lmemAccessBytes_refused {r : HostReq} {s : State} {n : Nat}
    (hn : accessBytes r.size = some n) (h : (r.addr.toNat - windowBase) % n ≠ 0 ∨
      s.params.lmemSize < r.addr.toNat - windowBase + n) : lmemAccessBytes r s = none := by
  rw [lmemAccessBytes, hn]
  exact if_neg (by omega)

/-! ## An LMEM access, performed (R115) -/

theorem lmemAccess_none {r : HostReq} {s : State} (h : lmemAccessBytes r s = none) :
    lmemAccess r s = reply (if r.we then .ack else .data 0) s := by
  rw [lmemAccess, h]

theorem lmemAccess_read {r : HostReq} {s : State} {n : Nat} (h : lmemAccessBytes r s = some n)
    (hw : r.we = false) :
    lmemAccess r s = reply (.data (lmemWord s (r.addr.toNat - windowBase) n)) s := by
  rw [lmemAccess, h, hw]
  rfl

theorem lmemAccess_write {r : HostReq} {s : State} {n : Nat} (h : lmemAccessBytes r s = some n)
    (hw : r.we = true) :
    lmemAccess r s = reply .ack
      (writeBytes s (r.addr.toNat - windowBase) ((wordBytes r.wdata).take n)) := by
  rw [lmemAccess, h, hw]
  rfl

/-- The bytes of the access little-endian, zeros above (R101, R201). -/
theorem extract_lmemWord (s : State) (a : Nat) {n k : Nat} (hn : n = 1 ∨ n = 2 ∨ n = 4)
    (hk : k < 4) :
    (lmemWord s a n).extractLsb' (8 * k) 8 = if k < n then readByte s (a + k) else 0 := by
  rw [lmemWord, extract_wordOfBytes _ _ _ _ hk]
  rcases hn with rfl | rfl | rfl <;> interval_cases k <;> rfl

/-- The held accesses are no part of an access. -/
theorem lmemAccess_held (r : HostReq) (s : State) (held : List HostReq) :
    lmemAccess r { s with held := held } = { lmemAccess r s with held := held } := by
  cases hn : lmemAccessBytes r s with
  | none =>
    rw [lmemAccess_none hn, lmemAccess_none (s := { s with held := held }) hn]
    rfl
  | some n =>
    cases hw : r.we with
    | false =>
      rw [lmemAccess_read hn hw, lmemAccess_read (s := { s with held := held }) hn hw]
      rfl
    | true =>
      rw [lmemAccess_write hn hw, lmemAccess_write (s := { s with held := held }) hn hw]
      rfl

/-! ## Steps at the window -/

theorem step_of_idleWindow {s : State} {r : HostReq} {rest : List HostMove}
    (h : HostTurn s r rest) (hw : inWindow r s = true) (hb : s.busy = false) :
    step s = .next (lmemAccess r { s with inputs := rest }) := by
  rw [step_of_hostTurn h, hostAccess_idleWindow (s := { s with inputs := rest }) h.inReset hw hb]

/-- An idle machine performs the oldest held access before anything else (R118). -/
theorem step_of_held {s : State} {r : HostReq} {later : List HostReq} (hb : s.busy = false)
    (hh : s.held = r :: later) : step s = .next (lmemAccess r { s with held := later }) := by
  rcases step_cases s with ⟨q, rest, -, hq, hx⟩ | ⟨hturn, -⟩
  · obtain ⟨rfl, rfl⟩ := List.cons.inj (hh.symm.trans hq)
    exact hx
  · simp [hb, hh] at hturn

/-- Settles O21: the size, the alignment and LMEM_SIZE decide how many bytes the access moves. -/
theorem lmem_window : Obligations.lmem_window := by
  intro s r rest a n h hb haddr ha
  have hwin : inWindow r s = true := (inWindow_iff r s).2 (by omega)
  have hx := step_of_idleWindow h hwin hb
  have hoff : r.addr.toNat - windowBase = a := by rw [haddr]; exact Nat.add_sub_cancel_left ..
  refine ⟨fun hmem halign hfits => ?_, fun hbad => ?_⟩
  · have hn := accessBytes_of_mem hmem
    have hmoves : lmemAccessBytes r { s with inputs := rest } = some n :=
      lmemAccessBytes_eq_some hn (by rw [hoff]; exact halign) (by rw [hoff]; exact hfits)
    refine ⟨fun hw => ?_, fun hw => ?_⟩
    · rw [lmemAccess_read hmoves hw, hoff] at hx
      exact ⟨_, hx, fun k hk => extract_lmemWord _ a (accessBytes_cases hn) hk⟩
    · rw [lmemAccess_write hmoves hw, hoff] at hx
      have hlen : ((wordBytes r.wdata).take n).length = n := by
        rw [List.length_take, length_wordBytes]
        have := accessBytes_cases hn
        omega
      refine ⟨_, hx, rfl, fun k hk => ?_, fun b hout => ?_⟩
      · refine (readByte_writeBytes_inside { s with inputs := rest } a _ k (hlen.symm ▸ hk)).trans ?_
        rw [List.getElem_take, getElem_wordBytes]
      · exact readByte_writeBytes_outside { s with inputs := rest } a _ b (hlen.symm ▸ hout)
  · have hnone : lmemAccessBytes r { s with inputs := rest } = none := by
      rcases hbad with h3 | ⟨hmem, hbad⟩
      · exact lmemAccessBytes_reserved h3
      · exact lmemAccessBytes_refused (accessBytes_of_mem (List.mem_cons_of_mem _ hmem))
          (by rw [hoff]; exact hbad)
    rw [lmemAccess_none hnone] at hx
    exact hx

/-- Settles O22: the queue grows at its end while busy, and its head is performed as the access it
is. -/
theorem held_accesses : Obligations.held_accesses := by
  intro s r rest hlo hhi hr
  have hwin : inWindow r s = true := (inWindow_iff r s).2 ⟨hlo, hhi⟩
  refine ⟨fun hb hi => ?_, fun later hb hh => ?_⟩
  · rw [step_of_hostTurn ⟨hi, .inl hb, hr⟩,
      hostAccess_busyWindow (s := { s with inputs := rest }) hr hwin hb]
  · have hnow := step_of_idleWindow
      (s := { s with held := [], inputs := .access r :: s.inputs }) ⟨rfl, .inr rfl, hr⟩ hwin hb
    exact ⟨_, hnow, (step_of_held hb hh).trans
      (congrArg Host.Outcome.next (lmemAccess_held r { s with held := [] } later))⟩

/-- Settles O23, by the effects a host access can have: the soft reset is excluded, START needs an idle
machine, and a write to STATUS finds no bit to clear. -/
theorem busy_accesses_harmless : Obligations.busy_accesses_harmless := by
  intro s r rest h hb hdone herr hsrst
  have hx := step_of_hostTurn h
  rcases hostAccess_cases r { s with inputs := rest } with ⟨-, hr, -⟩ | ⟨-, -, hidle, -⟩ |
    ⟨v, -, he⟩ | ⟨v, hr, he⟩ | ⟨hk, hd, hi⟩
  · exact absurd hr hsrst
  · exact absurd (hb.symm.trans hidle) (by decide)
  · rw [he] at hx
    refine ⟨_, hx, rfl, ⟨rfl, ?_, ?_, rfl⟩, rfl, rfl, ⟨rfl, rfl⟩, ⟨rfl, rfl⟩, rfl, rfl, rfl, rfl,
      rfl, .inl ⟨rfl, rfl⟩⟩
    · simp [hdone]
    · simp [herr]
  · rw [he] at hx
    exact ⟨_, hx, rfl, ⟨rfl, rfl, rfl, rfl⟩, rfl, rfl, ⟨rfl, rfl⟩, ⟨rfl, rfl⟩, rfl, rfl, rfl, rfl,
      rfl, .inr ⟨v, hr, rfl, rfl⟩⟩
  · obtain ⟨hclp, hin, hout, hlmem⟩ := hk.whenBusy hb
    exact ⟨_, hx, hk.params, hk.status, hk.cp, hk.count, hin, hout, hclp, hlmem, hk.lmemDraw,
      hk.boundaries, hk.inputs, .inl ⟨hd, hi⟩⟩

end Sys2Proof.Machine
end

section
/-! SUPPORT. Decoding and encoding, and the checks on the operand words alone (spec/30_encoding.md). -/

namespace Sys2Proof

open Machine

/-! ## Bytes of a descriptor (R300) -/

theorem Descriptor.length_bytes (d : Descriptor) : d.bytes.length = 32 := rfl

/-- A descriptor's bytes, read again, are the descriptor: each word is read where it was written. -/
theorem Descriptor.ofBytes_bytes (d : Descriptor) : Descriptor.ofBytes d.bytes = d := by
  obtain ⟨w0, w1, w2, w3, w4, w5, w6, w7⟩ := d
  rw [Descriptor.ofBytes, Descriptor.mk.injEq]
  exact ⟨wordOfBytes_wordBytes w0, wordOfBytes_wordBytes w1, wordOfBytes_wordBytes w2,
    wordOfBytes_wordBytes w3, wordOfBytes_wordBytes w4, wordOfBytes_wordBytes w5,
    wordOfBytes_wordBytes w6, wordOfBytes_wordBytes w7⟩

theorem decodeBytes_bytes (d : Descriptor) : decodeBytes d.bytes = decode d := by
  rw [decodeBytes, if_pos d.length_bytes, d.ofBytes_bytes]

/-! ## The fields of W0 (R301) -/

theorem toNat_opcField (w0 : Word) : (opcField w0).toNat = w0.toNat % 256 := by
  simp [opcField]

theorem toNat_rsvdField (w0 : Word) : (rsvdField w0).toNat = w0.toNat / 512 := by
  have h := w0.isLt
  rw [rsvdField, BitVec.extractLsb'_toNat, Nat.shiftRight_eq_div_pow]
  omega

theorem cField_eq (w0 : Word) : cField w0 = decide (w0.toNat / 256 % 2 = 1) := by
  simp [cField, BitVec.getLsbD, Nat.testBit_eq_decide_div_mod_eq]

theorem toNat_commandWord (c : Bool) (opc : BitVec 8) :
    (commandWord c opc).toNat = 256 * c.toNat + opc.toNat := by
  rw [commandWord, BitVec.toNat_append, BitVec.toNat_append, ← Nat.shiftLeft_add_eq_or_of_lt opc.isLt]
  simp [Nat.shiftLeft_eq, Nat.mul_comm]

@[simp] theorem opcField_commandWord (c : Bool) (opc : BitVec 8) :
    opcField (commandWord c opc) = opc := by
  apply BitVec.eq_of_toNat_eq
  rw [toNat_opcField, toNat_commandWord]
  omega

@[simp] theorem cField_commandWord (c : Bool) (opc : BitVec 8) : cField (commandWord c opc) = c := by
  have h := opc.isLt
  rw [cField_eq, toNat_commandWord]
  cases c with
  | false => exact decide_eq_false (by rw [Bool.toNat_false]; omega)
  | true => exact decide_eq_true (by rw [Bool.toNat_true]; omega)

@[simp] theorem rsvdField_commandWord (c : Bool) (opc : BitVec 8) :
    rsvdField (commandWord c opc) = 0#23 := by
  have h := opc.isLt
  have hc := c.toNat_lt
  apply BitVec.eq_of_toNat_eq
  rw [toNat_rsvdField, toNat_commandWord, BitVec.toNat_ofNat]
  omega

/-- A W0 without reserved bits is the command word of its fields. -/
theorem commandWord_fields {w0 : Word} (h : w0.toNat / 512 = 0) :
    commandWord (cField w0) (opcField w0) = w0 := by
  apply BitVec.eq_of_toNat_eq
  rw [toNat_commandWord, toNat_opcField, cField_eq]
  rcases Nat.mod_two_eq_zero_or_one (w0.toNat / 256) with hc | hc
  · rw [decide_eq_false (by omega), Bool.toNat_false]
    omega
  · rw [decide_eq_true hc, Bool.toNat_true]
    omega

/-! ## The opcode map (R306) -/

/-- The mnemonic has a `.C` form. -/
def Opcode.hasC (op : Opcode) : Bool := opcodeTable.any fun row => row.op == op && row.hasC

theorem opcodeRow_opcOf (op : Opcode) : opcodeRow (opcOf op) = some ⟨opcOf op, op, op.hasC⟩ := by
  cases op <;> rfl

/-- A row found for an OPC value holds that value, and is the one row of its mnemonic. -/
theorem opcodeRow_eq_some {opc : BitVec 8} {row : OpcodeRow} (h : opcodeRow opc = some row) :
    row ∈ opcodeTable ∧ row.opc = opc ∧ opcOf row.op = opc ∧ row.op.hasC = row.hasC := by
  have hmem : row ∈ opcodeTable := List.mem_of_find?_eq_some h
  have hopc : row.opc = opc := by simpa using List.find?_some h
  have htable : ∀ r ∈ opcodeTable, opcOf r.op = r.opc ∧ r.op.hasC = r.hasC := by decide
  exact ⟨hmem, hopc, (htable row hmem).1.trans hopc, (htable row hmem).2⟩

/-- The OPC values R306 gives no command. -/
def OpcGap (n : Nat) : Prop :=
  (0x06 ≤ n ∧ n ≤ 0x0F) ∨ (0x12 ≤ n ∧ n ≤ 0x17) ∨ (0x1A ≤ n ∧ n ≤ 0x1F) ∨ (0x22 ≤ n ∧ n ≤ 0x27) ∨
    (0x2C ≤ n ∧ n ≤ 0x2F) ∨ (0x34 ≤ n ∧ n ≤ 0x37) ∨ (0x3A ≤ n ∧ n ≤ 0x3F) ∨ (0x43 ≤ n ∧ n ≤ 0xFF)

theorem opcodeRow_eq_none_iff (opc : BitVec 8) : opcodeRow opc = none ↔ OpcGap opc.toNat := by
  have hlt := opc.isLt
  simp only [opcodeRow, List.find?_eq_none, opcodeTable, List.forall_mem_cons, List.not_mem_nil,
    false_implies, implies_true, and_true, beq_iff_eq, ← BitVec.toNat_inj, BitVec.toNat_ofNat, OpcGap]
  omega

/-- The rows with a `.C` form, by their OPC values. -/
theorem row_hasC_iff {row : OpcodeRow} (h : row ∈ opcodeTable) :
    row.hasC = true ↔ row.opc.toNat ∈ [0x28, 0x29, 0x2A, 0x2B, 0x32, 0x33, 0x41, 0x42] := by
  have hall : ∀ r ∈ opcodeTable,
      r.hasC = true ↔ r.opc.toNat ∈ [0x28, 0x29, 0x2A, 0x2B, 0x32, 0x33, 0x41, 0x42] := by decide
  exact hall row h

/-! ## Decoding (R307) -/

theorem decode_of_no_row {d : Descriptor} (h : opcodeRow (opcField d.w0) = none) :
    decode d = .error .opcode := by
  rw [decode, h]

theorem decode_of_rsvd {d : Descriptor} {row : OpcodeRow}
    (h : opcodeRow (opcField d.w0) = some row) (hr : rsvdField d.w0 ≠ 0#23) :
    decode d = .error .reserved := by
  simp only [decode, h, if_pos hr]

theorem decode_of_no_form {d : Descriptor} {row : OpcodeRow}
    (h : opcodeRow (opcField d.w0) = some row) (hc : cField d.w0 = true) (hf : row.hasC = false) :
    decode d = .error .reserved := by
  simp [decode, h, hc, hf]

theorem decode_of_row {d : Descriptor} {row : OpcodeRow}
    (h : opcodeRow (opcField d.w0) = some row) (hr : rsvdField d.w0 = 0#23)
    (hc : cField d.w0 = true → row.hasC = true) :
    decode d = .ok (instrOf row.op (cField d.w0) d) := by
  simpa [decode, h, hr] using hc

/-! ## Encoding (R311) -/

theorem encode_w0 (i : Instr) : (encode i).w0 = commandWord i.opcode.2 (opcOf i.opcode.1) := rfl

/-- A command is its mnemonic, its C bit and its operand words. -/
theorem instrOf_encode (i : Instr) : instrOf i.opcode.1 i.opcode.2 (encode i) = i := by
  cases i <;> rfl

theorem opcode_instrOf (op : Opcode) (c : Bool) (d : Descriptor) :
    (instrOf op c d).opcode = (op, c && op.hasC) := by
  cases op <;> cases c <;> rfl

/-- Only a mnemonic with a `.C` form has a command with C = 1. -/
theorem hasC_of_opcode {i : Instr} (h : i.opcode.2 = true) : i.opcode.1.hasC = true := by
  have hop := opcode_instrOf i.opcode.1 i.opcode.2 (encode i)
  rw [instrOf_encode, h] at hop
  exact (congrArg Prod.snd hop).symm.trans h

theorem Instr.eq_of_opcode_of_operands {i j : Instr} (ho : i.opcode = j.opcode)
    (hw : i.operands = j.operands) : i = j := by
  have he : encode i = encode j := by simp only [encode, ho, hw]
  rw [← instrOf_encode i, ← instrOf_encode j, ho, he]

/-- The operands of a decoded command are the first of W1, W2, … -/
theorem operands_instrOf (op : Opcode) (c : Bool) (d : Descriptor) :
    (instrOf op c d).operands = (d.words.drop 1).take (instrOf op c d).operands.length := by
  cases op <;> cases c <;> rfl

/-- How many operands there are, W0 decides. -/
theorem length_operands_instrOf (op : Opcode) (c : Bool) (d e : Descriptor) :
    (instrOf op c e).operands.length = (instrOf op c d).operands.length := by
  cases op <;> cases c <;> rfl

/-- R302: operand words past those the command uses are ignored. -/
theorem instrOf_congr {op : Opcode} {c : Bool} {d e : Descriptor}
    (h : (e.words.drop 1).take (instrOf op c d).operands.length = (instrOf op c d).operands) :
    instrOf op c e = instrOf op c d := by
  apply Instr.eq_of_opcode_of_operands
  · rw [opcode_instrOf, opcode_instrOf]
  · rw [operands_instrOf op c e, length_operands_instrOf op c d e, h]

theorem decode_encode (i : Instr) : decode (encode i) = .ok i := by
  have hrow : opcodeRow (opcField (encode i).w0) =
      some ⟨opcOf i.opcode.1, i.opcode.1, i.opcode.1.hasC⟩ := by
    rw [encode_w0, opcField_commandWord, opcodeRow_opcOf]
  have hrsvd : rsvdField (encode i).w0 = 0#23 := by rw [encode_w0, rsvdField_commandWord]
  have hc : cField (encode i).w0 = i.opcode.2 := by rw [encode_w0, cField_commandWord]
  rw [decode_of_row hrow hrsvd fun h => hasC_of_opcode (hc.symm.trans h), hc, instrOf_encode]

theorem decode_of_encode_eq {i : Instr} {d : Descriptor} (h : encode i = d) : decode d = .ok i :=
  h ▸ decode_encode i

/-- A W0 with a row, no reserved bits and a C bit the row allows is the W0 of the command it decodes
to. -/
theorem encode_w0_instrOf {d : Descriptor} {row : OpcodeRow}
    (h : opcodeRow (opcField d.w0) = some row) (hr : d.w0.toNat / 512 = 0)
    (hc : cField d.w0 = true → row.hasC = true) :
    (encode (instrOf row.op (cField d.w0) d)).w0 = d.w0 := by
  obtain ⟨-, -, hopc, hform⟩ := opcodeRow_eq_some h
  have hbit : (cField d.w0 && row.op.hasC) = cField d.w0 := by simpa [hform] using hc
  rw [encode_w0, opcode_instrOf, hbit, hopc, commandWord_fields hr]

/-! ## The checks on the operand words alone (R304, R308) -/

theorem exec_of_firstError {i : Instr} {s : State} {e : ErrCode} (hi : i ≠ .halt)
    (h : (footprintOf i s).firstError s.params.lmemSize = some e) :
    exec i s = .next (errorHalt e s) := by
  obtain ⟨body, hx, -⟩ := exec_body i hi s
  rw [hx, runCommand_error h]

theorem badDims_eq_true_iff (f : Footprint) :
    f.badDims = true ↔ ∃ d, f.dims = some d ∧ (dimsH d = 0 ∨ dimsW d = 0) := by
  cases h : f.dims <;> simp [Footprint.badDims, h]

theorem exec_of_zeroDims {i : Instr} {d : Word} (hd : dimsOperand i = some d)
    (h : dimsH d = 0 ∨ dimsW d = 0) (s : State) : exec i s = .next (errorHalt .dims s) := by
  have hi : i ≠ .halt := by
    rintro rfl
    cases hd
  have hbad : (footprintOf i s).badDims = true :=
    (badDims_eq_true_iff _).2 ⟨d, (footprintOf_dims i s).trans hd, h⟩
  exact exec_of_firstError hi (by rw [Footprint.firstError, if_pos hbad])

theorem dimsOk_iff (d : Word) : dimsOk d = true ↔ ¬ (dimsH d = 0 ∨ dimsW d = 0) := by
  simp [dimsOk, dimsHeightField, dimsWidthField, dimsH, dimsW, ← BitVec.toNat_inj]

theorem aligned8_iff (a : Word) : aligned8 a = true ↔ a.toNat % 8 = 0 := by
  simp [aligned8, ← BitVec.toNat_inj]

/-- The static check is steps 3, 4 and 6 of 60_exceptions.md R1303: the dimensions, the arguments, the
alignment. -/
theorem wellFormed_iff (i : Instr) (s : State) :
    i.wellFormed = true ↔ (footprintOf i s).badDims = false ∧ (footprintOf i s).argOk = true ∧
      (footprintOf i s).badAlign = false := by
  rw [← Bool.not_eq_true (Footprint.badDims _), badDims_eq_true_iff, footprintOf_dims,
    ← Bool.not_eq_false (Footprint.argOk _), footprintOf_argOk_eq_false, badAlign_eq_false_iff,
    footprintOf_operands]
  cases i <;> simp [Instr.wellFormed, dimsOperand, namedSources, namedDests, Named.operand,
    Named.region, Kind.real, dimsOk_iff, aligned8_iff, pairOk, radiusOk, and_assoc]

/-- A failed check of the dimensions, the arguments or the alignment is reported as such, or as the
range error, which comes before the alignment. -/
theorem firstError_of_bad {f : Footprint} (size : Nat)
    (h : ¬ (f.badDims = false ∧ f.argOk = true ∧ f.badAlign = false)) :
    ∃ e ∈ [ErrCode.dims, .arg, .range, .align], f.firstError size = some e := by
  unfold Footprint.firstError
  split_ifs with hd ha hr hl
  · exact ⟨.dims, by decide, rfl⟩
  · exact ⟨.arg, by decide, rfl⟩
  · exact ⟨.range, by decide, rfl⟩
  · exact ⟨.align, by decide, rfl⟩
  all_goals exact absurd ⟨by simpa using hd, by simpa using ha, by simpa using hl⟩ h

/-! ## The statements -/

/-- Settles O1: the bytes give the descriptor back, its W0 the row and the C bit, its words the
operands. -/
theorem decode_of_encode : Obligations.decode_of_encode := fun i =>
  ⟨(encode i).length_bytes, (decodeBytes_bytes (encode i)).trans (decode_encode i)⟩

/-- Settles O2: the gaps are the OPC values without a row, and a row with its C bit and the operand
words is a command. -/
theorem decode_follows_w0 : Obligations.decode_follows_w0 := by
  intro d opc c rsvd undefined hasC
  have hgap : opcodeRow (opcField d.w0) = none ↔ undefined := by
    rw [opcodeRow_eq_none_iff, toNat_opcField]
    exact Iff.rfl
  have hrow (h : ¬ undefined) : ∃ row, opcodeRow (opcField d.w0) = some row ∧
      (row.hasC = true ↔ hasC) := by
    obtain ⟨row, hrow⟩ := Option.ne_none_iff_exists'.1 (mt hgap.1 h)
    obtain ⟨hmem, hopc, -, -⟩ := opcodeRow_eq_some hrow
    refine ⟨row, hrow, ?_⟩
    rw [row_hasC_iff hmem, hopc, toNat_opcField]
  have hrsvd : rsvdField d.w0 = 0#23 ↔ rsvd = 0 := by
    rw [← BitVec.toNat_inj, toNat_rsvdField]
    exact Iff.rfl
  have hc : cField d.w0 = true ↔ c = 1 := by
    rw [cField_eq, decide_eq_true_iff]
  refine ⟨fun h => decode_of_no_row (hgap.2 h), fun h hr => ?_, fun h hr hc1 hf => ?_,
    fun h hr hf => ?_⟩
  · obtain ⟨row, hrow, -⟩ := hrow h
    exact decode_of_rsvd hrow (mt hrsvd.1 hr)
  · obtain ⟨row, hrow, hform⟩ := hrow h
    exact decode_of_no_form hrow (hc.2 hc1) (Bool.eq_false_iff.2 (mt hform.1 hf))
  · obtain ⟨row, hrow, hform⟩ := hrow h
    have hallowed : cField d.w0 = true → row.hasC = true := fun h => hform.2 (hf (hc.1 h))
    refine ⟨instrOf row.op (cField d.w0) d, decode_of_row hrow (hrsvd.2 hr) hallowed,
      encode_w0_instrOf hrow hr hallowed, operands_instrOf _ _ _, fun e hw0 hwords => ?_⟩
    rw [← hw0] at hrow hallowed hwords ⊢
    have hrsvd' : rsvdField e.w0 = 0#23 := hw0 ▸ hrsvd.2 hr
    rw [decode_of_row hrow hrsvd' hallowed, instrOf_congr hwords]

/-- Settles O26: what the static check refuses, the check of the dimensions, the arguments or the
alignment refuses in every state. -/
theorem ill_formed_refused : Obligations.ill_formed_refused := by
  intro i s hbad
  have hi : i ≠ .halt := by
    rintro rfl
    cases hbad
  obtain ⟨e, he, hfirst⟩ := firstError_of_bad s.params.lmemSize
    (mt (wellFormed_iff i s).2 (by simp [hbad]))
  exact ⟨e, he, exec_of_firstError hi hfirst⟩

/-- Settles O3: each descriptor is the one the encoder writes for its command. -/
theorem decode_of_words : Obligations.decode_of_words := by
  refine ⟨?_, ?_, ?_, ?_, ?_, ?_, ?_, ?_, ?_, ?_⟩ <;> exact decode_of_encode_eq (by decide)

/-- Settles O25: each of the commands has `dims` as its DIMS operand, whose check is the first. -/
theorem zero_dimensions_refused : Obligations.zero_dimensions_refused := by
  intro s a b c d e dims h i hi
  refine exec_of_zeroDims (d := dims) ?_ h s
  fin_cases hi <;> rfl

end Sys2Proof
end

section
/-! SUPPORT. The engine's step and the control commands (spec/40_control.md): what a command may do and
write, what moves CP, and the results of NOP, HALT, SETIN, SETOUT, SPUT and SGET. -/

namespace Sys2Proof.Machine

/-! ## The step of a busy machine (R400, R401) -/

theorem step_of_noMove {s : State} (hb : s.busy = true) (hi : s.inputs = []) :
    step s = engineStep s := by
  simp [step, hb, hi]

theorem step_of_wait {s : State} {rest : List HostMove} (hb : s.busy = true)
    (hi : s.inputs = .wait :: rest) : step s = engineStep { s with inputs := rest } := by
  simp [step, hb, hi]

theorem decodeBytes_readBytes (s : State) (a : Nat) :
    decodeBytes (readBytes s a 32) = decode (Descriptor.ofBytes (readBytes s a 32)) := by
  rw [decodeBytes, if_pos (length_readBytes s a 32)]

theorem engineStep_decoded {s : State} {i : Instr} (hb : s.busy = true)
    (hf : s.cp.toNat + 32 ≤ s.params.lmemSize)
    (hd : decodeBytes (readBytes s s.cp.toNat 32) = .ok i) : engineStep s = exec i s := by
  rw [decodeBytes_readBytes] at hd
  rw [engineStep_fetched hb hf, hd]

/-- Settles O4: the step is the engine's, and the host's script is no part of what it fetches. -/
theorem step_runs_decoded : Obligations.step_runs_decoded := by
  intro s i hb hf hd
  refine ⟨fun hi => ?_, fun rest hi => ?_⟩
  · rw [step_of_noMove hb hi]
    exact engineStep_decoded hb hf hd
  · rw [step_of_wait hb hi]
    exact engineStep_decoded (s := { s with inputs := rest }) hb hf hd

/-! ## What a command writes (R400, 60_exceptions.md R1304) -/

theorem contains_eq_false_iff (r : Region) (a : Nat) :
    r.contains a = false ↔ a < r.base ∨ r.base + r.len ≤ a := by
  rw [← Bool.not_eq_true, contains_iff]
  omega

/-- A body writes inside the destinations of R306. -/
theorem BodyFrame.sameBytesOutside {i : Instr} {s t : State} (h : BodyFrame (footprintOf i s) s t) :
    SameBytesOutsideRegions (destsOf i s) s t := by
  intro a ha
  refine h.bytes a fun r hr => (contains_eq_false_iff r a).2 (ha r ?_)
  rwa [footprintOf_destRegions] at hr

theorem sameBytesOutsideRegions_unspecify (s : State) (rs : List Region) :
    SameBytesOutsideRegions rs s (unspecify s rs) := fun a ha =>
  readByte_unspecify_outside s rs a fun r hr => (contains_eq_false_iff r a).2 (ha r hr)

/-- Settles O6, by the four things a command can do: end the list as HALT, fail its checks, fail while
it computes, or complete. -/
theorem command_outcomes : Obligations.command_outcomes := by
  intro i s
  rcases exec_cases i s with
    ⟨hi, hx⟩ | ⟨hi, e, -, he, hx⟩ | ⟨hi, -, ⟨e, he, hx⟩ | ⟨t, ht, hx⟩⟩ <;> refine ⟨_, hx, ?_⟩
  · exact ⟨fun _ _ => rfl, .inr (.inl ⟨hi, ⟨rfl, rfl⟩, rfl, rfl⟩)⟩
  · exact ⟨fun _ _ => rfl, .inr (.inr ⟨hi, e, he, errorHalted_self e s⟩)⟩
  · refine ⟨?_, .inr (.inr ⟨hi, e, executionError_ne_none he, errorHalted_unspecify e s _⟩)⟩
    rw [footprintOf_destRegions]
    exact sameBytesOutsideRegions_unspecify s (destsOf i s)
  · exact ⟨ht.sameBytesOutside, .inl ⟨hi, completed_of_frame ht⟩⟩

/-! ## What moves CP (R402; 70_reset_and_hazards.md R1400, R1401) -/

theorem exec_cp {i : Instr} {s t : State} (h : exec i s = .next t) :
    t.cp = s.cp ∨ Advanced s t := by
  obtain ⟨u, hu, -, hout⟩ := command_outcomes i s
  obtain rfl := Host.Outcome.next.inj (hu.symm.trans h)
  rcases hout with ⟨-, hdone⟩ | ⟨-, hadv, -⟩ | ⟨-, e, -, herr⟩
  · exact .inr hdone.advanced
  · exact .inr hadv
  · exact .inl herr.cp

theorem engineStep_cp {s t : State} (h : engineStep s = .next t) :
    t.cp = s.cp ∨ (s.busy = true ∧ Advanced s t) := by
  rcases engineStep_cases s with ⟨-, hx⟩ | ⟨-, e, hx, -⟩ | ⟨hb, -, i, hx⟩
  · obtain rfl := Host.Outcome.next.inj (hx.symm.trans h)
    exact .inl rfl
  · obtain rfl := Host.Outcome.next.inj (hx.symm.trans h)
    exact .inl rfl
  · exact (exec_cp (hx.symm.trans h)).imp_right fun hadv => ⟨hb, hadv⟩

theorem hostAccess_cp (r : HostReq) (s : State) :
    (hostAccess r s).cp = s.cp ∨
    (isStart r ∧ s.busy = false ∧ (hostAccess r s).cp = s.clp) ∨
    (isSrst r ∧ (hostAccess r s).cp = 0) := by
  rcases hostAccess_cases r s with
    ⟨-, hr, hx⟩ | ⟨-, hr, hb, hx⟩ | ⟨v, -, hx⟩ | ⟨v, -, hx⟩ | ⟨hk, -⟩
  · exact .inr (.inr ⟨hr, by rw [hx]; rfl⟩)
  · exact .inr (.inl ⟨hr, hb, by rw [hx]; rfl⟩)
  · exact .inl (by rw [hx]; rfl)
  · exact .inl (by rw [hx]; rfl)
  · exact .inl hk.cp

/-- A move of the host leaves CP, starts a list at CLP, or resets. -/
theorem hostMove_cp (m : HostMove) (s : State) :
    (hostMove m s).cp = s.cp ∨
    (∃ r, m = .access r ∧ isStart r ∧ s.busy = false ∧ (hostMove m s).cp = s.clp) ∨
    ((hostMove m s).cp = 0 ∧
      (m = .rstAssert ∨ m = .rstRelease ∨ ∃ r, m = .access r ∧ isSrst r)) := by
  cases m with
  | access r =>
    rcases hostAccess_cp r s with h | ⟨hr, hb, h⟩ | ⟨hr, h⟩
    · exact .inl h
    · exact .inr (.inl ⟨r, rfl, hr, hb, h⟩)
    · exact .inr (.inr ⟨h, .inr (.inr ⟨r, rfl, hr⟩)⟩)
  | rstAssert => exact .inr (.inr ⟨rfl, .inl rfl⟩)
  | rstRelease =>
    cases hr : s.inReset with
    | true => exact .inr (.inr ⟨by simp [hostMove, hr], .inr (.inl rfl)⟩)
    | false => exact .inl (by simp [hostMove, hr])
  | wait => exact .inl rfl

/-- Settles O10, by the things a step can be: a held access, the engine's step, a move of the host. -/
theorem cp_changes : Obligations.cp_changes := by
  intro s t hs
  rcases step_cases s with
    ⟨r, rest, hb, -, hx⟩ | ⟨-, ⟨-, hx⟩ | ⟨rest, -, hx⟩ | ⟨m, rest, hm, -, hx⟩⟩
  · obtain rfl := Host.Outcome.next.inj (hx.symm.trans hs)
    exact .inl (KeepsEngine.lmemAccess r (s := { s with held := rest }) hb).cp
  · exact (engineStep_cp (hx.symm.trans hs)).imp_right .inl
  · exact (engineStep_cp (hx.symm.trans hs)).imp_right .inl
  · obtain rfl := Host.Outcome.next.inj (hx.symm.trans hs)
    rcases hostMove_cp m { s with inputs := rest } with h | ⟨r, rfl, hr, hb, h⟩ | ⟨h, hreset⟩
    · exact .inl h
    · exact .inr (.inr (.inl ⟨r, rest, hm, hr, hb, h⟩))
    · exact .inr (.inr (.inr ⟨m, rest, hm, h, hreset⟩))

/-! ## NOP and HALT (R410, R411) -/

theorem exec_nop (s : State) : exec .nop s = .next (complete s) := by
  unfold exec execNop
  exact runCommand_ok rfl rfl

theorem exec_halt (s : State) : exec .halt s = .next (completeHalt s) := rfl

/-- Settles O29: NOP has nothing to check, and HALT checks nothing. -/
theorem nop_and_halt : Obligations.nop_and_halt := fun s =>
  ⟨⟨_, exec_nop s, completedQuietly_lmem s s.lmem, fun _ => rfl⟩,
    ⟨_, exec_halt s, ⟨rfl, rfl, rfl, rfl, rfl, rfl, rfl, rfl, rfl⟩, ⟨rfl, rfl⟩, ⟨rfl, rfl⟩,
      fun _ => rfl, ⟨rfl, rfl⟩, rfl, rfl, rfl, rfl⟩⟩

/-! ## Completions that move a cursor (R403) -/

/-- A command whose body changed LMEM and the cursors only. -/
theorem completed_lmem_cursors (s : State) (m : Memory) (inp inEnd outp outEnd : Word) :
    Completed s (complete { s with lmem := m, inp := inp, inEnd := inEnd, outp := outp,
                                   outEnd := outEnd }) :=
  ⟨⟨rfl, rfl, rfl, rfl, rfl, rfl, rfl, rfl, rfl⟩, ⟨rfl, rfl, rfl, rfl⟩, ⟨rfl, rfl⟩, rfl, rfl⟩

/-! ## SETIN and SETOUT (R412, R413) -/

/-- The checks of SETIN and SETOUT: the order of the pair, then its end against LMEM_SIZE. -/
theorem firstError_set (addr stop : Word) (size : Nat) :
    (setFootprint addr stop).firstError size =
      if stop.toNat < addr.toNat then some .arg
      else if size < stop.toNat then some .range
      else none := by
  simp [Footprint.firstError, setFootprint, Footprint.badDims, Footprint.badRange,
    Footprint.badAlign, Footprint.badOverlap, Footprint.destRegions, someOverlap]

theorem firstError_set_ok {addr stop : Word} {size : Nat} (h : addr.toNat ≤ stop.toNat)
    (hs : stop.toNat ≤ size) : (setFootprint addr stop).firstError size = none := by
  rw [firstError_set, if_neg (by omega), if_neg (by omega)]

theorem firstError_set_arg {addr stop : Word} {size : Nat} (h : stop.toNat < addr.toNat) :
    (setFootprint addr stop).firstError size = some .arg := by
  rw [firstError_set, if_pos h]

theorem firstError_set_range {addr stop : Word} {size : Nat} (h : addr.toNat ≤ stop.toNat)
    (hs : size < stop.toNat) : (setFootprint addr stop).firstError size = some .range := by
  rw [firstError_set, if_neg (by omega), if_pos hs]

theorem exec_setin {s : State} {addr stop : Word} (h : addr.toNat ≤ stop.toNat)
    (hs : stop.toNat ≤ s.params.lmemSize) :
    exec (.setin addr stop) s = .next (complete (setInput addr stop s)) := by
  unfold exec execSetin
  exact runCommand_ok (firstError_set_ok h hs) rfl

theorem exec_setout {s : State} {addr stop : Word} (h : addr.toNat ≤ stop.toNat)
    (hs : stop.toNat ≤ s.params.lmemSize) :
    exec (.setout addr stop) s = .next (complete (setOutput addr stop s)) := by
  unfold exec execSetout
  exact runCommand_ok (firstError_set_ok h hs) rfl

/-- Settles O30: both commands run the same checks. -/
theorem setin_and_setout : Obligations.setin_and_setout := by
  intro s addr stop
  refine ⟨fun h hs => ?_, fun i hi => ?_⟩
  · exact
      ⟨⟨_, exec_setin h hs, completed_lmem_cursors s _ _ _ _ _, fun _ => rfl, ⟨rfl, rfl⟩, rfl, rfl⟩,
      ⟨_, exec_setout h hs, completed_lmem_cursors s _ _ _ _ _, fun _ => rfl, ⟨rfl, rfl⟩, rfl, rfl⟩⟩
  · have hrefused {e : ErrCode}
        (hf : (setFootprint addr stop).firstError s.params.lmemSize = some e) :
        exec i s = .next (errorHalt e s) := by
      rcases List.mem_pair.1 hi with rfl | rfl <;> exact exec_of_firstError (by simp) hf
    exact ⟨fun h => hrefused (firstError_set_arg h),
      fun h hs => hrefused (firstError_set_range h hs)⟩

/-! ## SPUT and SGET (R414, R415) -/

/-- A cursor that stays within its stream does not wrap (R404). -/
theorem toNat_cursorPlus {cursor stop : Word} {n : Nat} (h : cursor.toNat + n ≤ stop.toNat) :
    (cursorPlus cursor n).toNat = cursor.toNat + n := by
  rw [cursorPlus, BitVec.toNat_ofNat, Nat.mod_eq_of_lt (by omega)]

/-- Byte j of a copy is byte j of its source. -/
theorem readByte_copy (s : State) (dst src : Nat) {n j : Nat} (hj : j < n) :
    readByte (writeBytes s dst (readBytes s src n)) (dst + j) = readByte s (src + j) := by
  have hl : j < (readBytes s src n).length := by rwa [length_readBytes]
  rw [readByte_writeBytes_inside s dst _ j hl, getElem_readBytes]

theorem exec_sput {s : State} {src n : Word} (h : ReadySput s src n) :
    exec (.sput src n) s = .next (complete (advanceOutput n.toNat
      (writeBytes s s.outp.toNat (readBytes s src.toNat n.toNat)))) := by
  unfold exec execSput
  exact runCommand_ok (firstError_sput h) rfl

theorem exec_sget {s : State} {dst n : Word} (h : ReadySget s dst n) :
    exec (.sget dst n) s = .next (complete (advanceInput n.toNat
      (writeBytes s dst.toNat (readBytes s s.inp.toNat n.toNat)))) := by
  unfold exec execSget
  exact runCommand_ok (firstError_sget h) rfl

/-- Settles O31: a copy to OUTP, whose move does not wrap as OUT_END is a word. -/
theorem sput_result : Obligations.sput_result := fun s src n h =>
  ⟨_, exec_sput h, completed_lmem_cursors s _ _ _ _ _, ⟨rfl, rfl⟩, rfl, toNat_cursorPlus h.room,
    fun _ hj => readByte_copy s s.outp.toNat src.toNat hj,
    sameBytesOutside_writeBytes (length_readBytes s src.toNat n.toNat)⟩

/-- Settles O32: a copy from INP, whose move does not wrap as IN_END is a word. -/
theorem sget_result : Obligations.sget_result := fun s dst n h =>
  ⟨_, exec_sget h, completed_lmem_cursors s _ _ _ _ _, ⟨rfl, rfl⟩, rfl, toNat_cursorPlus h.left,
    fun _ hj => readByte_copy s dst.toNat s.inp.toNat hj,
    sameBytesOutside_writeBytes (length_readBytes s s.inp.toNat n.toNat)⟩

end Sys2Proof.Machine
end

section
/-! SUPPORT. Colour conversion (spec/41_color.md): the planes CSCF writes, the raster CSCI writes, and
when it halts. -/

namespace Sys2Proof.Machine

/-! ## Where a command writes (30_encoding.md R306) -/

theorem exec_sameBytesOutside {i : Instr} {s t : State} (h : exec i s = .next t) :
    SameBytesOutsideRegions (destsOf i s) s t := by
  obtain ⟨u, hu, hframe, -⟩ := command_outcomes i s
  obtain rfl := Host.Outcome.next.inj (hu.symm.trans h)
  exact hframe

theorem SameBytesOutsideRegions.singleton {base len : Nat} {s t : State}
    (h : SameBytesOutsideRegions [⟨base, len⟩] s t) : SameBytesOutside base len s t := fun a ha =>
  h a fun r hr => by
    obtain rfl := List.mem_singleton.1 hr
    exact ha

/-! ## Lists and the bytes they write -/

/-- Entry j of list i, where every list has n entries. -/
theorem getElem?_flatten_of_forall {α : Type} {ls : List (List α)} {n : Nat}
    (h : ∀ l ∈ ls, l.length = n) (i : Nat) {j : Nat} (hj : j < n) :
    ls.flatten[n * i + j]? = ls[i]?.bind (·[j]?) := by
  induction ls generalizing i with
  | nil => rfl
  | cons l rest ih =>
    obtain ⟨hl, hrest⟩ := List.forall_mem_cons.1 h
    rw [List.flatten_cons]
    cases i with
    | zero =>
      rw [Nat.mul_zero, Nat.zero_add, List.getElem?_append_left (hl ▸ hj)]
      rfl
    | succ i =>
      have hsub : n * (i + 1) + j - l.length = n * i + j := by rw [hl, Nat.mul_succ]; omega
      rw [List.getElem?_append_right (by rw [hl, Nat.mul_succ]; omega), hsub, ih hrest]
      rfl

theorem getElem?_of_allSome {α : Type} {l : List (Option α)} {xs : List α} (h : allSome l = some xs)
    {i : Nat} {o : Option α} (ho : l[i]? = some o) : ∃ x, o = some x ∧ xs[i]? = some x := by
  rw [allSome_eq_some.1 h, List.getElem?_map, Option.map_eq_some_iff] at ho
  obtain ⟨x, hx, rfl⟩ := ho
  exact ⟨x, rfl, hx⟩

theorem readByte_writeBytes_getElem? {s : State} {base i : Nat} {bs : List Byte} {b : Byte}
    (h : bs[i]? = some b) : readByte (writeBytes s base bs) (base + i) = b := by
  obtain ⟨hi, rfl⟩ := List.getElem?_eq_some_iff.1 h
  exact readByte_writeBytes_inside s base bs i hi

/-! ## CSCF (R501, R510) -/

theorem readF64_planeOfRaster (u s : State) (dst src : Nat) (f : F64 → F64 → F64 → F64)
    {h w r c : Nat} (hr : r < h) (hc : c < w) :
    readF64 (writeF64s u dst (planeOfRaster s src h w f)) (dst + 8 * (r * w + c)) =
      f (f64OfByte (readByte s (src + 3 * (r * w + c))))
        (f64OfByte (readByte s (src + 3 * (r * w + c) + 1)))
        (f64OfByte (readByte s (src + 3 * (r * w + c) + 2))) :=
  readF64_writeF64s_grid _ hr hc

/-- A sample of a plane is as before after a plane apart from it is written. -/
theorem readF64_planeOfRaster_apart {p q h w : Nat} (hA : Apart q (8 * h * w) p (8 * h * w))
    (u s : State) (src : Nat) (f : F64 → F64 → F64 → F64) {r c : Nat} (hr : r < h) (hc : c < w) :
    readF64 (writeF64s u q (planeOfRaster s src h w f)) (p + 8 * (r * w + c)) =
      readF64 u (p + 8 * (r * w + c)) :=
  readF64_writeF64s_apart (by rw [length_planeOfRaster, Nat.mul_assoc]) (hA.element hr hc)

/-- The state with CSCF's three planes written, in the order Y, Cb, Cr. -/
def cscfWritten (src y cb cr d : Word) (s : State) : State :=
  let plane := planeOfRaster s src.toNat (dimsH d) (dimsW d)
  writeF64s
    (writeF64s (writeF64s s y.toNat (plane (yOfRgb s.params.csc)))
      cb.toNat (plane (cbOfRgb s.params.csc)))
    cr.toNat (plane (crOfRgb s.params.csc))

theorem exec_cscf {s : State} {src y cb cr d : Word} (h : ReadyCscf s src y cb cr d) :
    exec (.cscf src y cb cr d) s = .next (complete (cscfWritten src y cb cr d s)) := by
  unfold exec execCscf
  exact runCommand_ok (firstError_cscf h) rfl

/-- Settles O33: each plane reads back as written, since the planes written after it are apart from
it. -/
theorem cscf_result : Obligations.cscf_result := by
  intro s src y cb cr d h
  have hx := exec_cscf h
  refine ⟨_, hx, completedQuietly_lmem s _, exec_sameBytesOutside hx, fun r c hr hc => ?_⟩
  obtain ⟨⟨hYCb, hYCr⟩, hCbCr⟩ :
      (Apart y.toNat (8 * dimsH d * dimsW d) cb.toNat (8 * dimsH d * dimsW d) ∧
        Apart y.toNat (8 * dimsH d * dimsW d) cr.toNat (8 * dimsH d * dimsW d)) ∧
      Apart cb.toNat (8 * dimsH d * dimsW d) cr.toNat (8 * dimsH d * dimsW d) := by
    simpa using h.apart
  simp only [readF64_complete, cscfWritten]
  refine ⟨?_, ?_, readF64_planeOfRaster _ s _ _ _ hr hc⟩
  · rw [readF64_planeOfRaster_apart hYCr.symm _ s _ _ hr hc,
      readF64_planeOfRaster_apart hYCb.symm _ s _ _ hr hc]
    exact readF64_planeOfRaster _ s _ _ _ hr hc
  · rw [readF64_planeOfRaster_apart hCbCr.symm _ s _ _ hr hc]
    exact readF64_planeOfRaster _ s _ _ _ hr hc

/-! ## CSCI (R502, R511) -/

theorem toU8_eq_none_iff (x : F64) : toU8 x = none ↔ f64IsNaN x = true := by
  cases h : f64IsNaN x with
  | true => exact iff_of_true (toU8_of_nan h) rfl
  | false =>
    rw [toU8_of_not_nan h]
    exact iff_of_false (Option.some_ne_none _) Bool.false_ne_true

theorem channelByte_eq_none_iff (x : F64) : channelByte x = none ↔ f64IsNaN x = true := by
  rw [channelByte, Option.map_eq_none_iff, toU8_eq_none_iff]

/-- The bytes of a pixel are those of its channels in order (20_memory.md R205). -/
theorem rgbOfYcc_eq (s : State) (y cb cr : Word) (w r c : Nat) :
    rgbOfYcc s.params.csc (planeSample s y.toNat w r c) (planeSample s cb.toNat w r c)
        (planeSample s cr.toNat w r c) =
      allSome ((List.range 3).map fun j => channelByte (csciChannel s y cb cr w j r c)) := rfl

theorem rasterOfPlanes_eq_none_iff (s : State) (y cb cr : Word) (h w : Nat) :
    rasterOfPlanes s y.toNat cb.toNat cr.toNat h w = none ↔
      ∃ j r c, j < 3 ∧ r < h ∧ c < w ∧ f64IsNaN (csciChannel s y cb cr w j r c) = true := by
  simp only [rasterOfPlanes, Option.map_eq_none_iff, allSome_eq_none, mem_grid, rgbOfYcc_eq,
    List.mem_map, List.mem_range, channelByte_eq_none_iff]
  constructor
  · rintro ⟨r, hr, c, hc, j, hj, hn⟩
    exact ⟨j, r, c, hj, hr, hc, hn⟩
  · rintro ⟨j, r, c, hj, hr, hc, hn⟩
    exact ⟨r, hr, c, hc, j, hj, hn⟩

/-- The raster holds the byte of channel j of pixel (r, c) at 3(r·w + c) + j. -/
theorem getElem?_rasterOfPlanes {s : State} {y cb cr : Word} {h w : Nat} {bytes : List Byte}
    (hb : rasterOfPlanes s y.toNat cb.toNat cr.toNat h w = some bytes) {j r c : Nat} (hj : j < 3)
    (hr : r < h) (hc : c < w) :
    ∃ b, channelByte (csciChannel s y cb cr w j r c) = some b ∧
      bytes[3 * (r * w + c) + j]? = some b := by
  obtain ⟨pixels, hpixels, rfl⟩ := Option.map_eq_some_iff.1 hb
  have hlen : ∀ pixel ∈ pixels, pixel.length = 3 := by
    intro pixel hp
    have hmem := List.mem_map_of_mem (f := some) hp
    rw [← allSome_eq_some.1 hpixels, mem_grid] at hmem
    obtain ⟨_, _, _, _, hrgb⟩ := hmem
    exact length_rgbOfYcc hrgb
  obtain ⟨pixel, hrgb, hpixel⟩ := getElem?_of_allSome hpixels (getElem?_grid h w _ r c hr hc)
  rw [rgbOfYcc_eq] at hrgb
  obtain ⟨b, hchannel, hbyte⟩ := getElem?_of_allSome hrgb (i := j)
    (by rw [List.getElem?_map, List.getElem?_range hj]; rfl)
  refine ⟨b, hchannel, ?_⟩
  rw [getElem?_flatten_of_forall hlen _ hj, hpixel]
  exact hbyte

theorem exec_csci_some {s : State} {y cb cr dst d : Word} {bytes : List Byte}
    (h : ReadyCsci s y cb cr dst d)
    (hb : rasterOfPlanes s y.toNat cb.toNat cr.toNat (dimsH d) (dimsW d) = some bytes) :
    exec (.csci y cb cr dst d) s = .next (complete (writeBytes s dst.toNat bytes)) := by
  unfold exec execCsci
  exact runCommand_ok (firstError_csci h) (by rw [hb])

theorem exec_csci_none {s : State} {y cb cr dst d : Word} (h : ReadyCsci s y cb cr dst d)
    (hb : rasterOfPlanes s y.toNat cb.toNat cr.toNat (dimsH d) (dimsW d) = none) :
    exec (.csci y cb cr dst d) s =
      .next (errorHalt .numeric (unspecify s (csciFootprint y cb cr dst d).destRegions)) := by
  unfold exec execCsci
  exact runCommand_bodyError (firstError_csci h) (by rw [hb])

/-- Settles O34, by whether the planes make a raster: they do unless some channel is a NaN. -/
theorem csci_result : Obligations.csci_result := by
  intro s y cb cr dst d h
  refine ⟨fun hall => ?_, fun hnan => ?_⟩
  · obtain ⟨bytes, hb⟩ : ∃ bytes,
        rasterOfPlanes s y.toNat cb.toNat cr.toNat (dimsH d) (dimsW d) = some bytes := by
      rw [← Option.ne_none_iff_exists', Ne, rasterOfPlanes_eq_none_iff]
      rintro ⟨j, r, c, hj, hr, hc, hn⟩
      exact Bool.false_ne_true ((hall j r c hj hr hc).symm.trans hn)
    have hx := exec_csci_some h hb
    refine ⟨_, hx, completedQuietly_lmem s _, (exec_sameBytesOutside hx).singleton,
      fun j r c hj hr hc => ?_⟩
    obtain ⟨b, hchannel, hbyte⟩ := getElem?_rasterOfPlanes hb hj hr hc
    obtain ⟨n, hn, rfl⟩ := Option.map_eq_some_iff.1 hchannel
    refine ⟨n, hn, ?_⟩
    rw [readByte_complete, Nat.add_assoc]
    exact readByte_writeBytes_getElem? hbyte
  · have hx := exec_csci_none h ((rasterOfPlanes_eq_none_iff s y cb cr _ _).2 hnan)
    exact ⟨_, hx, errorHalted_unspecify .numeric s _, (exec_sameBytesOutside hx).singleton⟩

end Sys2Proof.Machine
end

section
/-! SUPPORT. Chroma subsampling (spec/42_subsample.md): the planes SUBS and UPS write, and their round
trip. -/

namespace Sys2Proof.Machine

/-! ## SUBS (R601, R610) -/

theorem exec_subs {s : State} {src dst d : Word} (hd : DimsLegal d)
    (h : ReadyMove s src (8 * dimsH d * dimsW d) true dst
      (8 * ceilDiv (dimsH d) 2 * ceilDiv (dimsW d) 2) true) :
    exec (.subs src dst d) s =
      .next (complete (writeF64s s dst.toNat (decimate s src.toNat (dimsH d) (dimsW d)))) := by
  have hchecks : (subsFootprint src dst d).firstError s.params.lmemSize = none :=
    firstError_of_move h (badDims_of_legal hd rfl) rfl rfl rfl rfl rfl rfl rfl rfl
  unfold exec execSubs
  exact runCommand_ok hchecks rfl

theorem readF64_decimate (u s : State) (dst src : Nat) {h w r c : Nat} (hr : r < ceilDiv h 2)
    (hc : c < ceilDiv w 2) :
    readF64 (writeF64s u dst (decimate s src h w)) (dst + 8 * (r * ceilDiv w 2 + c)) =
      planeSample s src w (2 * r) (2 * c) :=
  readF64_writeF64s_grid _ hr hc

/-- Settles O35: the destination reads back as the decimated plane that SUBS writes there. -/
theorem subs_result : Obligations.subs_result := by
  intro s src dst d hd h w cw hready
  have hx := exec_subs hd hready
  refine ⟨_, hx, completedQuietly_lmem s _, (exec_sameBytesOutside hx).singleton,
    fun r c hr hc => ?_⟩
  rw [readF64_complete]
  exact readF64_decimate s s _ _ hr hc

/-! ## UPS (R602, R611) -/

theorem exec_ups {s : State} {src dst d : Word} (hd : DimsLegal d)
    (h : ReadyMove s src (8 * ceilDiv (dimsH d) 2 * ceilDiv (dimsW d) 2) true dst
      (8 * dimsH d * dimsW d) true) :
    exec (.ups src dst d) s =
      .next (complete (writeF64s s dst.toNat (replicatePlane s src.toNat (dimsH d) (dimsW d)))) := by
  have hchecks : (upsFootprint src dst d).firstError s.params.lmemSize = none :=
    firstError_of_move h (badDims_of_legal hd rfl) rfl rfl rfl rfl rfl rfl rfl rfl
  unfold exec execUps
  exact runCommand_ok hchecks rfl

theorem readF64_replicatePlane (u s : State) (dst src : Nat) {h w r c : Nat} (hr : r < h)
    (hc : c < w) :
    readF64 (writeF64s u dst (replicatePlane s src h w)) (dst + 8 * (r * w + c)) =
      planeSample s src (ceilDiv w 2) (r / 2) (c / 2) :=
  readF64_writeF64s_grid _ hr hc

/-- Settles O36: the destination reads back as the replicated plane that UPS writes there. -/
theorem ups_result : Obligations.ups_result := by
  intro s src dst d hd h w cw hready
  have hx := exec_ups hd hready
  refine ⟨_, hx, completedQuietly_lmem s _, (exec_sameBytesOutside hx).singleton,
    fun r c hr hc => ?_⟩
  rw [readF64_complete]
  exact readF64_replicatePlane s s _ _ hr hc

/-! ## The round trip (R603) -/

/-- The group of a sample is one of the decimated plane's. -/
theorem div_two_lt_ceilDiv {r n : Nat} (h : r < n) : r / 2 < ceilDiv n 2 := by
  rw [ceilDiv_two]
  omega

/-- A command's checks look at the parameters of the state only. -/
theorem ReadyMove.of_params {s t : State} {src dst : Word} {n m : Nat} {sf df : Bool}
    (h : ReadyMove s src n sf dst m df) (hp : t.params = s.params) :
    ReadyMove t src n sf dst m df where
  fits := by
    simp only [Fits, hp]
    exact h.fits
  align := h.align
  apart := h.apart

/-- Settles O37: UPS's checks still pass after SUBS, which keeps the parameters, and the sample that
UPS copies to (r, c) is the one that SUBS wrote for its group (r / 2, c / 2). -/
theorem subsample_round_trip : Obligations.subsample_round_trip := by
  intro s src mid dst d hd h w hsubs hups
  obtain ⟨t, ht, ⟨hcompleted, -⟩, -, hdown⟩ := subs_result s src mid d hd hsubs
  obtain ⟨hparams, -⟩ := hcompleted.control
  obtain ⟨u, hu, -, -, hup⟩ := ups_result t mid dst d hd (hups.of_params hparams)
  refine ⟨t, u, ht, hu, fun r c hr hc => ?_⟩
  calc readF64 u (dst.toNat + 8 * (r * w + c))
      = readF64 t (mid.toNat + 8 * (r / 2 * ceilDiv w 2 + c / 2)) := hup r c hr hc
    _ = readF64 s (src.toNat + 8 * (2 * (r / 2) * w + 2 * (c / 2))) :=
        hdown (r / 2) (c / 2) (div_two_lt_ceilDiv hr) (div_two_lt_ceilDiv hc)

end Sys2Proof.Machine
end

section
/-! SUPPORT. The 8×8 block transform (spec/43_transform.md): the model's sums over a block in LMEM are
the rule's double sums over its elements, and FDCT and IDCT write a block of them. -/

namespace Sys2Proof.Machine

/-! ## The sums of the rules (R702, R703) -/

theorem fdctEntry_eq_fdctRule (f : List F64) (u v : Nat) :
    fdctEntry f u v = fdctRule (blockEntry f) u v := by
  rw [fdctEntry, fdctRule, fsum_grid]

theorem idctEntry_eq_idctRule (coeffs : List F64) (x y : Nat) :
    idctEntry coeffs x y = idctRule (blockEntry coeffs) x y := by
  rw [idctEntry, idctRule, fsum_grid]

section
variable {f g : Nat → Nat → F64} (h : ∀ r < 8, ∀ c < 8, f r c = g r c)
include h

theorem fdctRule_congr (u v : Nat) : fdctRule f u v = fdctRule g u v := by
  unfold fdctRule
  rw [loopSum_congr fun x hx y hy => by rw [h x hx y hy]]

theorem idctRule_congr (x y : Nat) : idctRule f x y = idctRule g x y := by
  unfold idctRule
  rw [loopSum_congr fun u hu v hv => by rw [h u hu v hv]]

end

/-! ## Blocks in LMEM (20_memory.md R206) -/

theorem blockEntry_readBlock (s : State) (a : Nat) {r c : Nat} (hr : r < 8) (hc : c < 8) :
    blockEntry (readBlock s a) r c = readF64 s (a + 8 * (8 * r + c)) :=
  getD_readBlock s a (8 * r + c) (by omega) f64Zero

theorem fdctEntry_readBlock (s : State) (a u v : Nat) :
    fdctEntry (readBlock s a) u v =
      fdctRule (fun x y => readF64 s (a + 8 * (8 * x + y))) u v :=
  (fdctEntry_eq_fdctRule _ u v).trans
    (fdctRule_congr (fun _ hx _ hy => blockEntry_readBlock s a hx hy) u v)

theorem idctEntry_readBlock (s : State) (a x y : Nat) :
    idctEntry (readBlock s a) x y =
      idctRule (fun u v => readF64 s (a + 8 * (8 * u + v))) x y :=
  (idctEntry_eq_idctRule _ x y).trans
    (idctRule_congr (fun _ hu _ hv => blockEntry_readBlock s a hu hv) x y)

/-- Element (r, c) of a real block just written, in the order of R206. -/
theorem readF64_writeBlock (s : State) (dst : Nat) (g : Nat → Nat → F64) {r c : Nat} (hr : r < 8)
    (hc : c < 8) :
    readF64 (complete (writeF64s s dst (grid 8 8 g))) (dst + 8 * (8 * r + c)) = g r c := by
  rw [readF64_complete, Nat.mul_comm 8 r]
  exact readF64_writeF64s_grid g hr hc

/-! ## FDCT and IDCT (R710, R711) -/

section commands
variable {s : State} {src dst : Word} (h : ReadyMove s src 512 true dst 512 true)
include h

theorem firstError_transform :
    (transformFootprint src dst).firstError s.params.lmemSize = none :=
  firstError_of_move h (badDims_of_none rfl) rfl rfl rfl rfl rfl rfl rfl rfl

theorem exec_fdct : exec (.fdct src dst) s =
    .next (complete (writeF64s s dst.toNat (fdctBlock (readBlock s src.toNat)))) := by
  unfold exec execFdct
  exact runCommand_ok (firstError_transform h) rfl

theorem exec_idct : exec (.idct src dst) s =
    .next (complete (writeF64s s dst.toNat (idctBlock (readBlock s src.toNat)))) := by
  unfold exec execIdct
  exact runCommand_ok (firstError_transform h) rfl

end commands

/-- Settles O38: element (u, v) reads back as the entry FDCT writes there, and that entry is the rule's
sum over the source block. -/
theorem fdct_result : Obligations.fdct_result := by
  intro s src dst h
  have hexec := exec_fdct h
  refine ⟨_, hexec, completedQuietly_lmem s _, (exec_sameBytesOutside hexec).singleton,
    fun u v hu hv => ?_⟩
  exact (readF64_writeBlock s dst.toNat _ hu hv).trans (fdctEntry_readBlock s src.toNat u v)

/-- Settles O39: element (x, y) reads back as the entry IDCT writes there, and that entry is the rule's
sum over the coefficients. -/
theorem idct_result : Obligations.idct_result := by
  intro s src dst h
  have hexec := exec_idct h
  refine ⟨_, hexec, completedQuietly_lmem s _, (exec_sameBytesOutside hexec).singleton,
    fun x y hx hy => ?_⟩
  exact (readF64_writeBlock s dst.toNat _ hx hy).trans (idctEntry_readBlock s src.toNat x y)

end Sys2Proof.Machine
end

section
/-! SUPPORT. The quantizer (spec/44_quantizer.md): a block and a padded plane quantize exactly when no
quotient is a NaN, what QUANT, DEQUANT, QPLANE and DQPLANE write, and a block of zeros. -/

namespace Sys2Proof.Machine

/-! ## The byte of a quotient (00_scope.md R20) -/

/-- The byte a quotient is written as; none where toI8 raises E_NUMERIC. -/
def quotientByte (x : F64) : Option Byte := (toI8 x).map byteOfInt

theorem toI8_eq_none_iff (x : F64) : toI8 x = none ↔ f64IsNaN x = true := by
  unfold toI8
  split_ifs with hnan <;> simp [hnan]

theorem toI8_bounds {x : F64} {n : Int} (h : toI8 x = some n) : -128 ≤ n ∧ n ≤ 127 := by
  unfold toI8 clampInt at h
  split_ifs at h <;> cases h <;> omega

theorem quotientByte_eq_none_iff (x : F64) : quotientByte x = none ↔ f64IsNaN x = true := by
  rw [quotientByte, Option.map_eq_none_iff, toI8_eq_none_iff]

/-- The byte reads back as the integer that toI8 gives. -/
theorem toI8_of_quotientByte {x : F64} {b : Byte} (h : quotientByte x = some b) :
    toI8 x = some (sext8 b) := by
  obtain ⟨n, hn, rfl⟩ := Option.map_eq_some_iff.1 h
  obtain ⟨hlow, hhigh⟩ := toI8_bounds hn
  rw [sext8_byteOfInt n hlow hhigh, hn]

/-! ## Blocks (R803, R805) -/

theorem blockEntry_grid (g : Nat → Nat → F64) {r c : Nat} (hr : r < 8) (hc : c < 8) :
    blockEntry (grid 8 8 g) r c = g r c := by
  rw [blockEntry, Nat.mul_comm 8 r]
  exact getD_grid 8 8 g f64Zero r c hr hc

theorem getD_fdctBlock (f : List F64) {k : Nat} (hk : k < 64) :
    (fdctBlock f).getD k f64Zero = fdctRule (blockEntry f) (k / 8) (k % 8) := by
  have hentry := blockEntry_grid (fdctEntry f) (r := k / 8) (c := k % 8) (by omega) (by omega)
  rw [blockEntry, Nat.div_add_mod] at hentry
  exact hentry.trans (fdctEntry_eq_fdctRule f _ _)

theorem quantEntry_eq (T : List Byte) (f : List F64) {k : Nat} (hk : k < 64) :
    quantEntry T (fdctBlock f) k = quotientByte (quotientRule T (blockEntry f) k) := by
  rw [quantEntry, getD_fdctBlock f hk]
  rfl

section
variable {T : List Byte} {f : List F64} {g : Nat → Nat → F64}
  (hf : ∀ x < 8, ∀ y < 8, blockEntry f x y = g x y)
include hf

theorem quantBlock_eq_allSome :
    quantBlock T f = allSome ((List.range 64).map fun k => quotientByte (quotientRule T g k)) := by
  rw [quantBlock, ← List.range_eq_range']
  refine congrArg allSome (List.map_congr_left fun k hk => ?_)
  rw [quantEntry_eq T f (List.mem_range.1 hk), quotientRule, fdctRule_congr hf, ← quotientRule]

theorem quantBlock_eq_none_iff :
    quantBlock T f = none ↔ ∃ k, k < 64 ∧ f64IsNaN (quotientRule T g k) = true := by
  simp only [quantBlock_eq_allSome hf, allSome_eq_none, List.mem_map, List.mem_range,
    quotientByte_eq_none_iff]

/-- Coefficient k of a quantized block. -/
theorem getElem?_quantBlock {q : List Byte} (hq : quantBlock T f = some q) {k : Nat} (hk : k < 64) :
    ∃ b, toI8 (quotientRule T g k) = some (sext8 b) ∧ q[k]? = some b := by
  rw [quantBlock_eq_allSome hf] at hq
  obtain ⟨b, hquotient, hb⟩ := getElem?_of_allSome hq (i := k)
    (by rw [List.getElem?_map, List.getElem?_range hk]; rfl)
  exact ⟨b, toI8_of_quotientByte hquotient, hb⟩

end

/-- A dequantized block holds the samples of the rule. -/
theorem dequantBlock_eq_grid {T q : List Byte} {p : Nat → Int}
    (hq : ∀ k < 64, sext8 (q.getD k 0) = p k) : dequantBlock T q = grid 8 8 (dequantRule T p) := by
  unfold dequantBlock idctBlock
  refine grid_congr fun x _ y _ => ?_
  rw [idctEntry_eq_idctRule]
  refine idctRule_congr (fun u hu v hv => ?_) x y
  have hk : 8 * u + v < 64 := by omega
  rw [blockEntry, getD_map_range 64 _ hk, hq _ hk, tableEntry]

/-! ## QUANT (R810) -/

/-- F[k] / T[k] for the block at `src`. -/
def blockQuotient (T : List Byte) (s : State) (src k : Nat) : F64 :=
  quotientRule T (fun x y => readF64 s (src + 8 * (8 * x + y))) k

theorem blockEntry_source (s : State) (src : Nat) :
    ∀ x < 8, ∀ y < 8, blockEntry (readBlock s src) x y = readF64 s (src + 8 * (8 * x + y)) :=
  fun _ hx _ hy => blockEntry_readBlock s src hx hy

theorem quantBlock_readBlock_eq_none_iff (T : List Byte) (s : State) (src : Nat) :
    quantBlock T (readBlock s src) = none ↔
      ∃ k, k < 64 ∧ f64IsNaN (blockQuotient T s src k) = true :=
  quantBlock_eq_none_iff (blockEntry_source s src)

theorem quantTable_eq_tableOf (c : Bool) (s : State) : quantTable c s = tableOf c s := rfl

/-- Both forms are one command with the table as a parameter (R802). -/
theorem exec_quant_forms (c : Bool) (src dst : Word) (s : State) :
    exec (if c then .quantC src dst else .quant src dst) s = quantCommand c src dst s := by
  cases c <;> rfl

theorem firstError_quant {s : State} {src dst : Word} (h : ReadyMove s src 512 true dst 64 false) :
    (quantFootprint src dst).firstError s.params.lmemSize = none :=
  firstError_of_move h (badDims_of_none rfl) rfl rfl rfl rfl rfl rfl rfl rfl

theorem quantCommand_some {s : State} {c : Bool} {src dst : Word} {q : List Byte}
    (h : ReadyMove s src 512 true dst 64 false)
    (hq : quantBlock (tableOf c s) (readBlock s src.toNat) = some q) :
    quantCommand c src dst s = .next (complete (writeBytes s dst.toNat q)) :=
  runCommand_ok (firstError_quant h) (by rw [quantTable_eq_tableOf, hq])

/-- Settles O40: without a NaN the block quantizes, and each of its bytes reads back as the toI8 of its
quotient. -/
theorem quant_result : Obligations.quant_result := by
  intro s c src dst h q hall
  obtain ⟨bytes, hbytes⟩ : ∃ bytes,
      quantBlock (tableOf c s) (readBlock s src.toNat) = some bytes := by
    rw [← Option.ne_none_iff_exists', Ne, quantBlock_readBlock_eq_none_iff]
    rintro ⟨k, hk, hnan⟩
    exact Bool.false_ne_true ((hall k hk).symm.trans hnan)
  refine ⟨_, (exec_quant_forms c src dst s).trans (quantCommand_some h hbytes),
    completedQuietly_lmem s _, sameBytesOutside_writeBytes (length_quantBlock hbytes),
    fun k hk => ?_⟩
  obtain ⟨b, hquotient, hb⟩ := getElem?_quantBlock (blockEntry_source s src.toNat) hbytes hk
  refine ⟨sext8 b, hquotient, ?_⟩
  rw [readI8, readByte_complete, readByte_writeBytes_getElem? hb]

/-! ## DEQUANT (R811) -/

theorem exec_dequant_forms (c : Bool) (src dst : Word) (s : State) :
    exec (if c then .dequantC src dst else .dequant src dst) s = dequantCommand c src dst s := by
  cases c <;> rfl

theorem firstError_dequant {s : State} {src dst : Word} (h : ReadyMove s src 64 false dst 512 true) :
    (dequantFootprint src dst).firstError s.params.lmemSize = none :=
  firstError_of_move h (badDims_of_none rfl) rfl rfl rfl rfl rfl rfl rfl rfl

theorem getD_readBytes (s : State) (a : Nat) {n k : Nat} (hk : k < n) (d : Byte) :
    (readBytes s a n).getD k d = readByte s (a + k) := by
  have hl : k < (readBytes s a n).length := by rwa [length_readBytes]
  rw [List.getD_eq_getElem _ _ hl, getElem_readBytes]

theorem dequantBlock_readBytes (T : List Byte) (s : State) (src : Nat) :
    dequantBlock T (readBytes s src 64) =
      grid 8 8 (dequantRule T fun k => readI8 s (src + k)) :=
  dequantBlock_eq_grid fun k hk => by rw [getD_readBytes s src hk, readI8]

theorem dequantCommand_eq {s : State} (c : Bool) {src dst : Word}
    (h : ReadyMove s src 64 false dst 512 true) :
    dequantCommand c src dst s = .next (complete (writeF64s s dst.toNat
      (grid 8 8 (dequantRule (tableOf c s) fun k => readI8 s (src.toNat + k))))) := by
  rw [← dequantBlock_readBytes]
  exact runCommand_ok (firstError_dequant h) rfl

/-- Settles O41: the destination reads back as the block that DEQUANT writes there. -/
theorem dequant_result : Obligations.dequant_result := by
  intro s c src dst h
  exact ⟨_, (exec_dequant_forms c src dst s).trans (dequantCommand_eq c h),
    completedQuietly_lmem s _,
    sameBytesOutside_writeF64s (by rw [length_grid]),
    fun x y hx hy => readF64_writeBlock s dst.toNat _ hx hy⟩

/-! ## Tiles of a plane (R809) -/

/-- Element (x, y) of tile (bi, bj), in the coordinates of the plane. -/
theorem untile_of_getElem? {α : Type} {blocks : List (List α)} {block : List α} {tiles bi bj : Nat}
    (hblock : blocks[bi * tiles + bj]? = some block) {x y : Nat} (hx : x < 8) (hy : y < 8) (zero : α) :
    untile blocks tiles zero (8 * bi + x) (8 * bj + y) = block.getD (8 * x + y) zero := by
  have hbi : (8 * bi + x) / 8 = bi := by omega
  have hbj : (8 * bj + y) / 8 = bj := by omega
  have hxr : (8 * bi + x) % 8 = x := by omega
  have hyr : (8 * bj + y) % 8 = y := by omega
  rw [untile, hbi, hbj, hxr, hyr, List.getD_eq_getElem?_getD (l := blocks), hblock,
    Option.getD_some]

/-- The rows of a tile are rows of the padded plane. -/
theorem tile_lt_pad8 {b x n : Nat} (hb : b < pad8 n / 8) (hx : x < 8) : 8 * b + x < pad8 n := by omega

/-- An element of the plane lies in one of the padded plane's tiles. -/
theorem tile_of_lt {b x n : Nat} (h : 8 * b + x < n) : b < pad8 n / 8 := by
  obtain ⟨hmul, hle, -⟩ := pad8_spec n
  omega

/-! ## QPLANE (R808, R812) -/

/-- F[k] / T[k] for block (bi, bj) of the padded plane. -/
def planeQuotient (T : List Byte) (s : State) (src ph pw bi bj k : Nat) : F64 :=
  quotientRule T (fun x y => paddedSample s src ph pw (8 * bi + x) (8 * bj + y)) k

theorem blockEntry_paddedBlock (s : State) (src ph pw bi bj : Nat) :
    ∀ x < 8, ∀ y < 8, blockEntry (paddedBlock s src ph pw bi bj) x y =
      paddedSample s src ph pw (8 * bi + x) (8 * bj + y) :=
  fun _ hx _ hy => blockEntry_grid _ hx hy

theorem quantPlane_eq_none_iff (T : List Byte) (s : State) (src ph pw : Nat) :
    quantPlane T s src ph pw = none ↔
      ∃ bi bj k, bi < pad8 ph / 8 ∧ bj < pad8 pw / 8 ∧ k < 64 ∧
        f64IsNaN (planeQuotient T s src ph pw bi bj k) = true := by
  simp only [quantPlane, Option.map_eq_none_iff, allSome_eq_none, mem_grid,
    quantBlock_eq_none_iff (blockEntry_paddedBlock s src ph pw _ _)]
  constructor
  · rintro ⟨bi, hbi, bj, hbj, k, hk, hnan⟩
    exact ⟨bi, bj, k, hbi, hbj, hk, hnan⟩
  · rintro ⟨bi, bj, k, hbi, hbj, hk, hnan⟩
    exact ⟨bi, hbi, bj, hbj, k, hk, hnan⟩

/-- Coefficient k of block (bi, bj) stands at row 8·bi + k/8, column 8·bj + k%8 of the plane. -/
theorem getElem?_quantPlane {T : List Byte} {s : State} {src ph pw : Nat} {q : List Byte}
    (hq : quantPlane T s src ph pw = some q) {bi bj k : Nat} (hbi : bi < pad8 ph / 8)
    (hbj : bj < pad8 pw / 8) (hk : k < 64) :
    ∃ b, toI8 (planeQuotient T s src ph pw bi bj k) = some (sext8 b) ∧
      q[(8 * bi + k / 8) * pad8 pw + (8 * bj + k % 8)]? = some b := by
  obtain ⟨blocks, hblocks, rfl⟩ := Option.map_eq_some_iff.1 hq
  obtain ⟨block, hquant, hblock⟩ := getElem?_of_allSome hblocks (getElem?_grid _ _ _ bi bj hbi hbj)
  obtain ⟨b, hquotient, hb⟩ := getElem?_quantBlock (blockEntry_paddedBlock s src ph pw bi bj) hquant hk
  have hrow : k / 8 < 8 := by omega
  have hcol : k % 8 < 8 := by omega
  refine ⟨b, hquotient, ?_⟩
  rw [getElem?_grid _ _ _ _ _ (tile_lt_pad8 hbi hrow) (tile_lt_pad8 hbj hcol),
    untile_of_getElem? hblock hrow hcol, Nat.div_add_mod, List.getD_eq_getElem?_getD, hb,
    Option.getD_some]

theorem exec_qplane_forms (c : Bool) (src dst d : Word) (s : State) :
    exec (if c then .qplaneC src dst d else .qplane src dst d) s = qplaneCommand c src dst d s := by
  cases c <;> rfl

theorem firstError_qplane {s : State} {c : Bool} {src dst d : Word} (hd : DimsLegal d)
    (h : ReadyMove s src (8 * planeRows c d * planeCols c d) true dst
      (pad8 (planeRows c d) * pad8 (planeCols c d)) false) :
    (qplaneFootprint c src dst d).firstError s.params.lmemSize = none :=
  firstError_of_move h (badDims_of_legal hd rfl) rfl rfl rfl rfl rfl rfl rfl rfl

theorem qplaneCommand_some {s : State} {c : Bool} {src dst d : Word} {q : List Byte}
    (hd : DimsLegal d)
    (h : ReadyMove s src (8 * planeRows c d * planeCols c d) true dst
      (pad8 (planeRows c d) * pad8 (planeCols c d)) false)
    (hq : quantPlane (tableOf c s) s src.toNat (planeRows c d) (planeCols c d) = some q) :
    qplaneCommand c src dst d s = .next (complete (writeBytes s dst.toNat q)) :=
  runCommand_ok (firstError_qplane hd h) (by rw [quantTable_eq_tableOf, hq])

/-- Settles O42: without a NaN every block quantizes, and the tiles are disjoint parts of the plane that
is written, so each coefficient reads back. -/
theorem qplane_result : Obligations.qplane_result := by
  intro s c src dst d hd ph pw h q hall
  obtain ⟨bytes, hbytes⟩ : ∃ bytes,
      quantPlane (tableOf c s) s src.toNat ph pw = some bytes := by
    rw [← Option.ne_none_iff_exists', Ne, quantPlane_eq_none_iff]
    rintro ⟨bi, bj, k, hbi, hbj, hk, hnan⟩
    exact Bool.false_ne_true ((hall bi bj k hbi hbj hk).symm.trans hnan)
  refine ⟨_, (exec_qplane_forms c src dst d s).trans (qplaneCommand_some hd h hbytes),
    completedQuietly_lmem s _, sameBytesOutside_writeBytes (length_quantPlane hbytes),
    fun bi bj k hbi hbj hk => ?_⟩
  obtain ⟨b, hquotient, hb⟩ := getElem?_quantPlane hbytes hbi hbj hk
  refine ⟨sext8 b, hquotient, ?_⟩
  rw [readI8, readByte_complete, Nat.add_assoc, Nat.add_assoc, readByte_writeBytes_getElem? hb]

/-! ## DQPLANE (R813) -/

theorem dequantBlock_codedBlock (T : List Byte) (s : State) (src cols bi bj : Nat) :
    dequantBlock T (codedBlock s src cols bi bj) =
      grid 8 8 (dequantRule T fun k =>
        readI8 s (src + (8 * bi + k / 8) * cols + 8 * bj + k % 8)) :=
  dequantBlock_eq_grid fun k hk => by rw [codedBlock, getD_map_range 64 k hk, readI8]

/-- Sample (x, y) of the dequantized block (bi, bj), where it is inside the plane. -/
theorem readF64_dequantPlane (T : List Byte) (u s : State) (dst src : Nat) {ph pw bi bj x y : Nat}
    (hx : x < 8) (hy : y < 8) (hrow : 8 * bi + x < ph) (hcol : 8 * bj + y < pw) :
    readF64 (writeF64s u dst (dequantPlane T s src ph pw))
        (dst + 8 * ((8 * bi + x) * pw + (8 * bj + y))) =
      dequantRule T
        (fun k => readI8 s (src + (8 * bi + k / 8) * pad8 pw + 8 * bj + k % 8)) x y := by
  rw [dequantPlane, readF64_writeF64s_grid _ hrow hcol,
    untile_of_getElem? (getElem?_grid _ _ _ bi bj (tile_of_lt hrow) (tile_of_lt hcol)) hx hy,
    dequantBlock_codedBlock]
  exact blockEntry_grid _ hx hy

theorem exec_dqplane_forms (c : Bool) (src dst d : Word) (s : State) :
    exec (if c then .dqplaneC src dst d else .dqplane src dst d) s = dqplaneCommand c src dst d s := by
  cases c <;> rfl

theorem dqplaneCommand_eq {s : State} {c : Bool} {src dst d : Word} (hd : DimsLegal d)
    (h : ReadyMove s src (pad8 (planeRows c d) * pad8 (planeCols c d)) false dst
      (8 * planeRows c d * planeCols c d) true) :
    dqplaneCommand c src dst d s = .next (complete (writeF64s s dst.toNat
      (dequantPlane (tableOf c s) s src.toNat (planeRows c d) (planeCols c d)))) :=
  runCommand_ok
    (firstError_of_move h (badDims_of_legal hd rfl) rfl rfl rfl rfl rfl rfl rfl rfl) rfl

/-- Settles O43: the destination reads back as the plane that DQPLANE writes there, and a sample of it
is one of its block's. -/
theorem dqplane_result : Obligations.dqplane_result := by
  intro s c src dst d hd ph pw h
  refine ⟨_, (exec_dqplane_forms c src dst d s).trans (dqplaneCommand_eq hd h),
    completedQuietly_lmem s _,
    sameBytesOutside_writeF64s (by rw [length_dequantPlane, Nat.mul_assoc]),
    fun bi bj x y hx hy hrow hcol => ?_⟩
  rw [readF64_complete, Nat.add_assoc]
  exact readF64_dequantPlane _ s s _ _ hx hy hrow hcol

/-! ## A block of zeros (R806) -/

theorem fdiv_zero_left {a b : F64} (ha : f64IsZero a = true) (hb : f64Finite b = true)
    (hb0 : f64IsZero b = false) : f64IsZero (fdiv a b) = true := by
  simp only [f64Finite, Bool.and_eq_true, Bool.not_eq_true'] at hb
  obtain ⟨hnan, hinf⟩ := hb
  have hquotient : fdiv a b = f64Pack (f64Sign a != f64Sign b) 0 := by
    simp [fdiv, f64IsNaN_zero ha, f64IsInf_zero ha, hnan, hinf, hb0, f64Units_zero ha, f64Round_zero]
  rw [hquotient]
  exact f64IsZero_pack _

theorem toI8_zero {x : F64} (h : f64IsZero x = true) : toI8 x = some 0 := by
  rw [eq_f64Pack_of_zero h]
  cases f64Sign x <;> decide +kernel

/-- A table entry 1..255 as a datum: finite and not a zero. -/
theorem f64OfInt_entry : ∀ n < 256, 0 < n →
    f64Finite (f64OfInt (n : ℕ)) = true ∧ f64IsZero (f64OfInt (n : ℕ)) = false := by
  decide +kernel

theorem qtabLegal_tableOf {s : State} (h : s.params.legal = true) (c : Bool) :
    qtabLegal (tableOf c s) = true := by
  simp only [Params.legal, Bool.and_eq_true] at h
  obtain ⟨⟨-, hluma⟩, hchroma⟩ := h
  cases c with
  | false => exact hluma
  | true => exact hchroma

theorem getD_toNat_pos {T : List Byte} (h : qtabLegal T = true) (k : Nat) :
    0 < (T.getD k 1).toNat := by
  simp only [qtabLegal, Bool.and_eq_true, List.all_eq_true, bne_iff_ne] at h
  obtain ⟨-, hall⟩ := h
  rw [List.getD_eq_getElem?_getD]
  cases hentry : T[k]? with
  | none => decide
  | some b =>
    have hne := hall b (List.mem_of_getElem? hentry)
    exact Nat.pos_of_ne_zero fun hzero => hne (BitVec.eq_of_toNat_eq hzero)

/-- The quotients of a block of zeros are zeros, of either sign. -/
theorem quotientRule_zero {T : List Byte} (hT : qtabLegal T = true) {f : Nat → Nat → F64}
    (hf : ∀ x < 8, ∀ y < 8, f64IsZero (f x y) = true) {k : Nat} (hk : k < 64) :
    f64IsZero (quotientRule T f k) = true := by
  obtain ⟨hfinite, hnonzero⟩ := f64OfInt_entry _ (T.getD k 1).isLt (getD_toNat_pos hT k)
  rw [quotientRule, fdctRule_zero hf (by omega) (by omega)]
  exact fdiv_zero_left (by decide) hfinite hnonzero

/-- IDCT of zeros of either sign gives +0.0. -/
theorem idctRule_zero {F : Nat → Nat → F64} (h : ∀ u < 8, ∀ v < 8, f64IsZero (F u v) = true)
    {x y : Nat} (hx : x < 8) (hy : y < 8) : idctRule F x y = f64Zero := by
  unfold idctRule
  rw [loopSum_zero]
  · decide +kernel
  · exact fun u hu v hv => fmul_zero_left
      (fmul_zero_left (fmul_zero_right (cScale_mul_finite u hu v hv) (h u hu v hv))
        (cosEntry_finite x hx u hu))
      (cosEntry_finite y hy v hv)

theorem dequantRule_zero {T : List Byte} (hT : qtabLegal T = true) {q : Nat → Int}
    (hq : ∀ k < 64, q k = 0) {x y : Nat} (hx : x < 8) (hy : y < 8) :
    dequantRule T q x y = f64Zero := by
  refine idctRule_zero (fun u hu v hv => ?_) hx hy
  obtain ⟨hfinite, -⟩ := f64OfInt_entry _ (T.getD (8 * u + v) 1).isLt (getD_toNat_pos hT _)
  rw [hq (8 * u + v) (by omega)]
  exact fmul_zero_left (by decide +kernel) hfinite

/-- Settles O44: the quotients are zeros, so QUANT's bytes are 0; DEQUANT's checks still pass, as QUANT
keeps the parameters, and the inverse transform of zeros is +0.0. -/
theorem zero_block : Obligations.zero_block := by
  intro s c src mid dst hlegal hquant hdequant hzero
  have hT := qtabLegal_tableOf hlegal c
  have hquotient (k : Nat) (hk : k < 64) :
      f64IsZero (blockQuotient (tableOf c s) s src.toNat k) = true :=
    quotientRule_zero hT (fun x hx y hy => hzero (8 * x + y) (by omega)) hk
  obtain ⟨t, ht, ⟨hcompleted, -⟩, -, hcoeffs⟩ :=
    quant_result s c src mid hquant fun k hk => f64IsNaN_zero (hquotient k hk)
  have hq (k : Nat) (hk : k < 64) : readI8 t (mid.toNat + k) = 0 := by
    obtain ⟨n, hn, hread⟩ := hcoeffs k hk
    exact hread.trans (Option.some.inj (hn.symm.trans (toI8_zero (hquotient k hk))))
  obtain ⟨hparams, -⟩ := hcompleted.control
  obtain ⟨u, hu, -, -, hsamples⟩ := dequant_result t c mid dst (hdequant.of_params hparams)
  refine ⟨t, u, ht, hu, fun k hk => BitVec.toInt_inj.1 (hq k hk), fun k hk => ?_⟩
  have hread := hsamples (k / 8) (k % 8) (by omega) (by omega)
  have hTt : qtabLegal (tableOf c t) = true := by rwa [tableOf, hparams]
  rw [Nat.div_add_mod, dequantRule_zero hTt hq (by omega) (by omega)] at hread
  exact hread

end Sys2Proof.Machine
end

section
/-! SUPPORT. Zigzag reordering (spec/45_zigzag.md): the bytes ZZ, UNZZ, SER and DESER write, and that the
tiles of a padded plane cover it, so that SER and DESER undo each other. -/

namespace Sys2Proof.Machine

/-! ## ZZ and UNZZ (R910, R911) -/

section commands
variable {s : State} {src dst : Word} (h : ReadyMove s src 64 false dst 64 false)
include h

theorem firstError_zigzag : (zigzagFootprint src dst).firstError s.params.lmemSize = none :=
  firstError_of_move h (badDims_of_none rfl) rfl rfl rfl rfl rfl rfl rfl rfl

theorem exec_zz : exec (.zz src dst) s =
    .next (complete (writeBytes s dst.toNat (zigzagBlock s src.toNat))) := by
  unfold exec execZz
  exact runCommand_ok (firstError_zigzag h) rfl

theorem exec_unzz : exec (.unzz src dst) s =
    .next (complete (writeBytes s dst.toNat (unzigzagBlock s src.toNat))) := by
  unfold exec execUnzz
  exact runCommand_ok (firstError_zigzag h) rfl

end commands

theorem getElem?_zigzagBlock (s : State) (src : Nat) {j : Nat} (hj : j < 64) :
    (zigzagBlock s src)[j]? = some (readByte s (src + zzEntry j)) := by
  simp [zigzagBlock, hj]

theorem getElem?_unzigzagBlock (s : State) (src : Nat) {k : Nat} (hk : k < 64) :
    (unzigzagBlock s src)[k]? = some (readByte s (src + zzPosition k)) := by
  simp [unzigzagBlock, hk]

/-- Settles O46: the bytes read back as written, and for UNZZ the byte at ZZ[j] is the one whose zigzag
position is j. -/
theorem zz_and_unzz : Obligations.zz_and_unzz := by
  intro s src dst h
  refine ⟨⟨_, exec_zz h, completedQuietly_lmem s _,
      sameBytesOutside_writeBytes (length_zigzagBlock s src.toNat), fun j hj => ?_⟩,
    ⟨_, exec_unzz h, completedQuietly_lmem s _,
      sameBytesOutside_writeBytes (length_unzigzagBlock s src.toNat), fun j hj => ?_⟩⟩
  · rw [readByte_complete, readByte_writeBytes_getElem? (getElem?_zigzagBlock s src.toNat hj)]
  · rw [readByte_complete,
      readByte_writeBytes_getElem? (getElem?_unzigzagBlock s src.toNat (zzEntry_lt j hj)),
      zzPosition_zzEntry j hj]

/-! ## SER and DESER pass their checks (60_exceptions.md R1303) -/

section commands
variable {s : State} {c : Bool} {src dst d : Word} (hd : DimsLegal d)
  (h : ReadyMove s src (pad8 (planeRows c d) * pad8 (planeCols c d)) false dst
    (pad8 (planeRows c d) * pad8 (planeCols c d)) false)
include hd h

theorem serCommand_eq : serCommand c src dst d s =
    .next (complete (writeBytes s dst.toNat
      (serialize s src.toNat (planeRows c d) (planeCols c d)))) :=
  runCommand_ok
    (firstError_of_move h (badDims_of_legal hd rfl) rfl rfl rfl rfl rfl rfl rfl rfl) rfl

theorem deserCommand_eq : deserCommand c src dst d s =
    .next (complete (writeBytes s dst.toNat
      (deserialize s src.toNat (planeRows c d) (planeCols c d)))) :=
  runCommand_ok
    (firstError_of_move h (badDims_of_legal hd rfl) rfl rfl rfl rfl rfl rfl rfl rfl) rfl

end commands

/-! ## SER (R902, R912) -/

theorem exec_ser_forms (c : Bool) (src dst d : Word) (s : State) :
    exec (if c then .serC src dst d else .ser src dst d) s = serCommand c src dst d s := by
  cases c <;> rfl

/-- Entry 64t + j of the sequence is the byte of tile t at zigzag position j. -/
theorem getElem?_serialize (s : State) (src : Nat) {ph pw bi bj j : Nat} (hbi : bi < pad8 ph / 8)
    (hbj : bj < pad8 pw / 8) (hj : j < 64) :
    (serialize s src ph pw)[64 * (bi * (pad8 pw / 8) + bj) + j]? =
      some (readByte s (src + (8 * bi + zzEntry j / 8) * pad8 pw + 8 * bj + zzEntry j % 8)) := by
  rw [serialize, getElem?_flatten_of_forall ?_ _ hj, getElem?_grid _ _ _ bi bj hbi hbj]
  · simp [hj]
  · intro tile ht
    obtain ⟨_, _, _, _, rfl⟩ := mem_grid.1 ht
    simp

/-- Settles O47: the sequence reads back as SER writes it, entry by entry. -/
theorem ser_result : Obligations.ser_result := by
  intro s c src dst d hd PH PW h
  refine ⟨_, (exec_ser_forms c src dst d s).trans (serCommand_eq hd h), completedQuietly_lmem s _,
    sameBytesOutside_writeBytes (length_serialize s _ _ _), fun bi bj j hbi hbj hj => ?_⟩
  rw [readByte_complete, Nat.add_assoc,
    readByte_writeBytes_getElem? (getElem?_serialize s src.toNat hbi hbj hj)]

/-! ## DESER (R902, R913) -/

theorem exec_deser_forms (c : Bool) (src dst d : Word) (s : State) :
    exec (if c then .deserC src dst d else .deser src dst d) s = deserCommand c src dst d s := by
  cases c <;> rfl

/-- Row x and column y of tile (bi, bj) hold the entry of that tile whose zigzag position is that of
index 8x + y. -/
theorem readByte_deserialize (u s : State) (dst src : Nat) {ph pw bi bj x y : Nat}
    (hbi : bi < pad8 ph / 8) (hbj : bj < pad8 pw / 8) (hx : x < 8) (hy : y < 8) :
    readByte (writeBytes u dst (deserialize s src ph pw))
        (dst + ((8 * bi + x) * pad8 pw + (8 * bj + y))) =
      readByte s (src + 64 * (bi * (pad8 pw / 8) + bj) + zzPosition (8 * x + y)) := by
  have hbr : (8 * bi + x) / 8 = bi := by omega
  have hbc : (8 * bj + y) / 8 = bj := by omega
  have hxr : (8 * bi + x) % 8 = x := by omega
  have hyc : (8 * bj + y) % 8 = y := by omega
  rw [deserialize, readByte_writeBytes_grid _ (tile_lt_pad8 hbi hx) (tile_lt_pad8 hbj hy), hbr, hbc,
    hxr, hyc]

/-- Settles O48: index ZZ[j] of a tile is its row ZZ[j] / 8 and column ZZ[j] % 8, and its zigzag
position is j. -/
theorem deser_result : Obligations.deser_result := by
  intro s c src dst d hd PH PW h
  refine ⟨_, (exec_deser_forms c src dst d s).trans (deserCommand_eq hd h),
    completedQuietly_lmem s _, sameBytesOutside_writeBytes (length_deserialize s _ _ _),
    fun bi bj j hbi hbj hj => ?_⟩
  have hentry := zzEntry_lt j hj
  rw [readByte_complete, Nat.add_assoc, Nat.add_assoc,
    readByte_deserialize s s _ _ hbi hbj (by omega) (by omega), Nat.div_add_mod,
    zzPosition_zzEntry j hj]

/-! ## The round trips (R903) -/

/-- Every byte of the sequence is the entry of some tile at some zigzag position. -/
theorem exists_sequence_index {ph pw k : Nat} (hk : k < pad8 ph * pad8 pw) :
    ∃ bi bj j, bi < pad8 ph / 8 ∧ bj < pad8 pw / 8 ∧ j < 64 ∧
      64 * (bi * (pad8 pw / 8) + bj) + j = k := by
  have htile : k / 64 < pad8 ph / 8 * (pad8 pw / 8) := by
    rw [Nat.div_lt_iff_lt_mul (by omega)]
    calc k < pad8 ph * pad8 pw := hk
      _ = 8 * (pad8 ph / 8) * (8 * (pad8 pw / 8)) := by rw [← pad8_eq, ← pad8_eq]
      _ = pad8 ph / 8 * (pad8 pw / 8) * 64 := by ring
  have hcols : 0 < pad8 pw / 8 := Nat.pos_of_mul_pos_left (Nat.zero_lt_of_lt htile)
  refine ⟨k / 64 / (pad8 pw / 8), k / 64 % (pad8 pw / 8), k % 64,
    (Nat.div_lt_iff_lt_mul hcols).2 htile, Nat.mod_lt _ hcols, Nat.mod_lt _ (by omega), ?_⟩
  rw [Nat.div_add_mod', Nat.div_add_mod]

/-- Every byte of the padded plane lies in some tile at some zigzag position. -/
theorem exists_plane_index {ph pw k : Nat} (hk : k < pad8 ph * pad8 pw) :
    ∃ bi bj j, bi < pad8 ph / 8 ∧ bj < pad8 pw / 8 ∧ j < 64 ∧
      (8 * bi + zzEntry j / 8) * pad8 pw + 8 * bj + zzEntry j % 8 = k := by
  have hcols : 0 < pad8 pw := Nat.pos_of_mul_pos_left (Nat.zero_lt_of_lt hk)
  have hrow : k / pad8 pw < pad8 ph := (Nat.div_lt_iff_lt_mul hcols).2 hk
  have hcol : k % pad8 pw < pad8 pw := Nat.mod_lt _ hcols
  have hph := pad8_eq ph
  have hpw := pad8_eq pw
  refine ⟨k / pad8 pw / 8, k % pad8 pw / 8, zzPosition (8 * (k / pad8 pw % 8) + k % pad8 pw % 8),
    by omega, by omega, zzPosition_lt _ (by omega), ?_⟩
  rw [zzEntry_zzPosition _ (by omega)]
  have hx : (8 * (k / pad8 pw % 8) + k % pad8 pw % 8) / 8 = k / pad8 pw % 8 := by omega
  have hy : (8 * (k / pad8 pw % 8) + k % pad8 pw % 8) % 8 = k % pad8 pw % 8 := by omega
  rw [hx, hy, Nat.div_add_mod, Nat.add_assoc, Nat.div_add_mod, Nat.div_add_mod']

/-- Settles O49: the second command's checks still pass, as the first keeps the parameters; SER reads at
a tile's position what DESER writes there and the other way round, and the tiles cover the plane and the
sequence. -/
theorem zigzag_round_trip : Obligations.zigzag_round_trip := by
  intro s c src mid dst d hd n ser deser h1 h2
  refine ⟨?_, ?_⟩
  · obtain ⟨t, ht, ⟨hcompleted, -⟩, -, hser⟩ := ser_result s c src mid d hd h1
    obtain ⟨hparams, -⟩ := hcompleted.control
    obtain ⟨u, hu, -, -, hdeser⟩ := deser_result t c mid dst d hd (h2.of_params hparams)
    refine ⟨t, u, ht, hu, fun k hk => ?_⟩
    obtain ⟨bi, bj, j, hbi, hbj, hj, rfl⟩ := exists_plane_index hk
    simpa only [Nat.add_assoc] using (hdeser bi bj j hbi hbj hj).trans (hser bi bj j hbi hbj hj)
  · obtain ⟨t, ht, ⟨hcompleted, -⟩, -, hdeser⟩ := deser_result s c src mid d hd h1
    obtain ⟨hparams, -⟩ := hcompleted.control
    obtain ⟨u, hu, -, -, hser⟩ := ser_result t c mid dst d hd (h2.of_params hparams)
    refine ⟨t, u, ht, hu, fun k hk => ?_⟩
    obtain ⟨bi, bj, j, hbi, hbj, hj, rfl⟩ := exists_sequence_index hk
    simpa only [Nat.add_assoc] using (hser bi bj j hbi hbj hj).trans (hdeser bi bj j hbi hbj hj)

end Sys2Proof.Machine
end

section
/-! SUPPORT. The zero-run code (spec/46_zero_run.md): what the encoder emits for a run and for a literal,
the decoder token by token, that decoding undoes encoding, and how long a code can be. -/

namespace Sys2Proof.Machine

/-! ## The encoder (R1001) -/

@[simp] theorem runPair_zero : runPair 0 = [] := rfl

theorem runPair_of_pos {run : Nat} (h : 0 < run) : runPair run = [0#8, BitVec.ofNat 8 run] :=
  if_neg (Nat.pos_iff_ne_zero.1 h)

/-- A run takes no byte or two. -/
theorem length_runPair (run : Nat) : (runPair run).length = if run = 0 then 0 else 2 := by
  unfold runPair
  split <;> rfl

@[simp] theorem zrlEncodeFrom_nil (run : Nat) : zrlEncodeFrom run [] = runPair run := rfl

@[simp] theorem zrlEncode_nil : zrlEncode [] = [] := rfl

/-- A zero that leaves the counter below 255 is counted and emits nothing. -/
theorem zrlEncodeFrom_zero {run : Nat} (h : run + 1 < 255) (rest : List Byte) :
    zrlEncodeFrom run (0#8 :: rest) = zrlEncodeFrom (run + 1) rest := by
  rw [zrlEncodeFrom, if_pos rfl, if_neg (by omega)]

/-- The zero that brings the counter to 255 emits the pair (0, 255). -/
theorem zrlEncodeFrom_full (rest : List Byte) :
    zrlEncodeFrom 254 (0#8 :: rest) = runPair 255 ++ zrlEncode rest := by
  rw [zrlEncodeFrom, if_pos rfl, if_pos rfl, zrlEncode]

theorem zrlEncodeFrom_literal {b : Byte} (hb : b ≠ 0#8) (run : Nat) (rest : List Byte) :
    zrlEncodeFrom run (b :: rest) = runPair run ++ b :: zrlEncode rest := by
  rw [zrlEncodeFrom, if_neg hb, zrlEncode]

/-- The counted zeros are emitted where the run ends. -/
theorem zrlEncodeFrom_of_head {rest : List Byte} (h : rest.head? ≠ some 0#8) (run : Nat) :
    zrlEncodeFrom run rest = runPair run ++ zrlEncode rest := by
  cases rest with
  | nil => simp
  | cons b rest =>
    have hb : b ≠ 0#8 := fun e => h (by rw [e, List.head?_cons])
    rw [zrlEncode, zrlEncodeFrom_literal hb, zrlEncodeFrom_literal hb, runPair_zero,
      List.nil_append]

theorem zrlEncodeFrom_replicate {run z : Nat} (h : run + z < 255) (rest : List Byte) :
    zrlEncodeFrom run (List.replicate z 0#8 ++ rest) = zrlEncodeFrom (run + z) rest := by
  induction z generalizing run with
  | zero => rfl
  | succ z ih =>
    rw [List.replicate_succ, List.cons_append, zrlEncodeFrom_zero (by omega), ih (by omega),
      Nat.add_assoc, Nat.add_comm 1]

theorem zrlEncode_replicate_255 (rest : List Byte) :
    zrlEncode (List.replicate 255 0#8 ++ rest) = runPair 255 ++ zrlEncode rest := by
  have hsplit : List.replicate 255 (0#8) ++ rest = List.replicate 254 (0#8) ++ (0#8 :: rest) := by
    rw [List.replicate_succ', List.append_assoc, List.singleton_append]
  rw [hsplit, zrlEncode, zrlEncodeFrom_replicate (by omega), Nat.zero_add, zrlEncodeFrom_full]

/-- Whatever follows, each 255 zeros emit one pair (0, 255). -/
theorem zrlEncode_replicate_mul_255 (q : Nat) (rest : List Byte) :
    zrlEncode (List.replicate (255 * q) 0#8 ++ rest) =
      (List.replicate q [0x00#8, 0xFF#8]).flatten ++ zrlEncode rest := by
  induction q with
  | zero => rfl
  | succ q ih =>
    rw [Nat.mul_succ, Nat.add_comm, List.replicate_add, List.append_assoc,
      zrlEncode_replicate_255, ih, List.replicate_succ, List.flatten_cons, List.append_assoc]
    rfl

/-- A maximal run: its full pairs, then the pair of what remains. -/
theorem zrlEncode_run (z : Nat) {rest : List Byte} (h : rest.head? ≠ some 0#8) :
    zrlEncode (List.replicate z 0#8 ++ rest) =
      (List.replicate (z / 255) [0x00#8, 0xFF#8]).flatten ++ runPair (z % 255) ++
        zrlEncode rest := by
  have hz : List.replicate z (0#8) =
      List.replicate (255 * (z / 255)) (0#8) ++ List.replicate (z % 255) (0#8) := by
    rw [← List.replicate_add, Nat.div_add_mod]
  have hrest : zrlEncode (List.replicate (z % 255) 0#8 ++ rest) =
      runPair (z % 255) ++ zrlEncode rest := by
    rw [zrlEncode, zrlEncodeFrom_replicate (by omega), Nat.zero_add, zrlEncodeFrom_of_head h]
  rw [hz, List.append_assoc, zrlEncode_replicate_mul_255, hrest, List.append_assoc]

/-- Settles O50: a literal ends no run, and a maximal run of z zeros is z / 255 full counts and a
counter of z % 255, emitted where the run ends. -/
theorem zrl_encoding : Obligations.zrl_encoding :=
  ⟨rfl, fun _ rest hb => zrlEncodeFrom_literal hb 0 rest, fun z _ h => zrlEncode_run z h⟩

/-! ## The decoder, token by token (R1000, R1003, R1004) -/

/-- While values are missing, a token is read, and the rest stands for the other values. -/
theorem zrlDecode_token {x : Token} (hx : x.legal = true) {n : Nat} (hn : 0 < x.values.length + n)
    (stream : List Byte) :
    zrlDecode (x.bytes ++ stream) (x.values.length + n) =
      (zrlDecode stream n).map fun p => (x.values ++ p.1, p.2 + x.bytes.length) := by
  cases x with
  | literal b =>
    have hb : b ≠ 0#8 := by simpa [Token.legal] using hx
    rw [Nat.add_comm]
    exact zrlDecode_literal hb stream n
  | run c =>
    rw [Token.values, List.length_replicate] at hn ⊢
    have hpair := zrlDecode_pair (c := c) (n := c.toNat + n) (by omega) (by omega) stream
    rwa [Nat.add_sub_cancel_left] at hpair

/-- While values are missing, a decoding that succeeds has a token to read, of no more values than are
missing. -/
theorem exists_token_of_zrlDecode {stream : List Byte} {n : Nat} (hn : 0 < n)
    (h : zrlDecode stream n ≠ none) :
    ∃ (x : Token) (rest : List Byte) (m : Nat), x.legal = true ∧ stream = x.bytes ++ rest ∧
      n = x.values.length + m := by
  match stream, h with
  | [], h => exact absurd (by rw [zrlDecode_nil, if_neg (by omega)]) h
  | b :: rest, h =>
    by_cases hb : b = 0#8
    · subst hb
      match rest, h with
      | [], h => exact absurd (zrlDecode_escape_end (by omega)) h
      | c :: rest, h =>
        have hc : c.toNat ≤ n :=
          Nat.le_of_not_lt fun hc => h (zrlDecode_run_past (by omega) hc rest)
        exact ⟨.run c, rest, n - c.toNat, rfl, rfl,
          by rw [Token.values, List.length_replicate, Nat.add_sub_cancel' hc]⟩
    · exact ⟨.literal b, rest, n - 1, by simpa [Token.legal] using hb, rfl,
        (Nat.add_sub_cancel' hn).symm⟩

/-- Each of the tokens is read before n values are there. -/
def ReadBefore (n : Nat) (tokens : List Token) : Prop :=
  ∀ k, k < tokens.length → ((tokens.take k).flatMap Token.values).length < n

theorem readBefore_nil (n : Nat) : ReadBefore n [] := fun _ hk => absurd hk (Nat.not_lt_zero _)

theorem readBefore_cons {n : Nat} {x : Token} {tokens : List Token} :
    ReadBefore (x.values.length + n) (x :: tokens) ↔
      0 < x.values.length + n ∧ ReadBefore n tokens := by
  refine ⟨fun h => ⟨h 0 (Nat.succ_pos _), fun k hk => ?_⟩, fun ⟨h0, h⟩ k hk => ?_⟩
  · have := h (k + 1) (Nat.succ_lt_succ hk)
    rw [List.take_succ_cons, List.flatMap_cons, List.length_append] at this
    omega
  · cases k with
    | zero => exact h0
    | succ k =>
      have := h k (Nat.lt_of_succ_lt_succ hk)
      rw [List.take_succ_cons, List.flatMap_cons, List.length_append]
      omega

/-- What the tokens stand for is decoded, and nothing after them is read. -/
theorem zrlDecode_tokens {tokens : List Token} (hlegal : ∀ x ∈ tokens, x.legal = true)
    (hread : ReadBefore (tokens.flatMap Token.values).length tokens) (rest : List Byte) :
    zrlDecode (tokens.flatMap Token.bytes ++ rest) (tokens.flatMap Token.values).length =
      some (tokens.flatMap Token.values, (tokens.flatMap Token.bytes).length) := by
  induction tokens with
  | nil => exact zrlDecode_zero rest
  | cons x tokens ih =>
    obtain ⟨hx, hlegal⟩ := List.forall_mem_cons.1 hlegal
    simp only [List.flatMap_cons, List.length_append, List.append_assoc] at hread ⊢
    obtain ⟨hpos, hread⟩ := readBefore_cons.1 hread
    rw [zrlDecode_token hx hpos, ih hlegal hread, Option.map_some, Nat.add_comm x.bytes.length]

/-- A decoding that succeeds has read tokens that stand for its values. -/
theorem exists_tokens_of_zrlDecode {stream values : List Byte} {n used : Nat}
    (h : zrlDecode stream n = some (values, used)) :
    ∃ (tokens : List Token) (rest : List Byte), stream = tokens.flatMap Token.bytes ++ rest ∧
      (∀ x ∈ tokens, x.legal = true) ∧ used = (tokens.flatMap Token.bytes).length ∧
      values = tokens.flatMap Token.values ∧ ReadBefore n tokens := by
  induction hl : stream.length using Nat.strong_induction_on
    generalizing stream n values used with
  | _ l ih =>
    subst hl
    rcases Nat.eq_zero_or_pos n with rfl | hn
    · rw [zrlDecode_zero] at h
      cases h
      exact ⟨[], stream, rfl, List.forall_mem_nil _, rfl, rfl, readBefore_nil 0⟩
    · obtain ⟨x, rest, m, hx, rfl, rfl⟩ := exists_token_of_zrlDecode hn (by rw [h]; nofun)
      rw [zrlDecode_token hx hn] at h
      obtain ⟨⟨vs, u⟩, hrest, heq⟩ := Option.map_eq_some_iff.1 h
      cases heq
      have hshorter : rest.length < (x.bytes ++ rest).length := by
        cases x <;> simp [Token.bytes]
      obtain ⟨tokens, tail, rfl, hlegal, rfl, rfl, hread⟩ := ih _ hshorter hrest rfl
      refine ⟨x :: tokens, tail, ?_, List.forall_mem_cons.2 ⟨hx, hlegal⟩, ?_, rfl,
        readBefore_cons.2 ⟨hn, hread⟩⟩
      · rw [List.flatMap_cons, List.append_assoc]
      · rw [List.flatMap_cons, List.length_append, Nat.add_comm]

/-- Settles O51: a decoding that succeeds reads one token after the other, and tokens that stand for n
values decode to them. -/
theorem zrl_decoding : Obligations.zrl_decoding := by
  intro stream n values used
  constructor
  · intro h
    obtain ⟨tokens, rest, hstream, hlegal, hused, hvalues, hread⟩ := exists_tokens_of_zrlDecode h
    exact ⟨tokens, rest, hstream, hlegal, hused, hvalues, (length_zrlDecode h).1, hread⟩
  · rintro ⟨tokens, rest, rfl, hlegal, rfl, rfl, rfl, hread⟩
    exact zrlDecode_tokens hlegal hread rest

/-! ## Decoding a code (R1005) -/

/-- The pair of a run decodes to its zeros; no run has no pair. -/
theorem zrlDecode_runPair {run : Nat} (h : run ≤ 255) (stream : List Byte) (n : Nat) :
    zrlDecode (runPair run ++ stream) (run + n) =
      (zrlDecode stream n).map fun p =>
        (List.replicate run 0#8 ++ p.1, p.2 + (runPair run).length) := by
  rcases Nat.eq_zero_or_pos run with rfl | hpos
  · rw [runPair_zero, List.nil_append, Nat.zero_add]
    exact Option.map_id'.symm
  · have hcount : (BitVec.ofNat 8 run).toNat = run := by
      rw [BitVec.toNat_ofNat, Nat.mod_eq_of_lt (by omega)]
    have htoken := zrlDecode_token (x := .run (BitVec.ofNat 8 run)) (n := n) rfl
      (by rw [Token.values, List.length_replicate]; omega) stream
    rw [Token.values, hcount, List.length_replicate] at htoken
    rw [runPair_of_pos hpos]
    exact htoken

/-- The code of a sequence with `run` zeros counted before it stands for these zeros as well. -/
theorem zrlDecode_zrlEncodeFrom {run : Nat} (h : run < 255) (values rest : List Byte) :
    zrlDecode (zrlEncodeFrom run values ++ rest) (run + values.length) =
      some (List.replicate run 0#8 ++ values, (zrlEncodeFrom run values).length) := by
  induction values generalizing run with
  | nil =>
    rw [zrlEncodeFrom_nil, List.length_nil, zrlDecode_runPair (by omega), zrlDecode_zero]
    simp
  | cons b values ih =>
    have hsucc : List.replicate (run + 1) (0#8) ++ values =
        List.replicate run (0#8) ++ 0#8 :: values := by
      rw [List.replicate_succ', List.append_assoc, List.singleton_append]
    by_cases hb : b = 0#8
    · subst hb
      rw [List.length_cons, ← hsucc, Nat.add_comm values.length, ← Nat.add_assoc]
      by_cases hrun : run + 1 < 255
      · rw [zrlEncodeFrom_zero hrun, ih hrun]
      · obtain rfl : run = 254 := by omega
        have hvalues := ih (run := 0) (by omega)
        rw [Nat.zero_add] at hvalues
        rw [zrlEncodeFrom_full, zrlEncode, List.append_assoc, zrlDecode_runPair (by omega), hvalues,
          List.length_append, Nat.add_comm (runPair 255).length]
        rfl
    · have hvalues := ih (run := 0) (by omega)
      rw [Nat.zero_add] at hvalues
      rw [zrlEncodeFrom_literal hb, zrlEncode, List.append_assoc, List.cons_append,
        List.length_cons, zrlDecode_runPair (by omega), zrlDecode_literal hb, hvalues]
      simp [Nat.add_comm]

/-- Settles O52: the case of no zeros counted before the sequence. -/
theorem zrl_round_trip : Obligations.zrl_round_trip := by
  intro values rest
  have := zrlDecode_zrlEncodeFrom (run := 0) (by omega) values rest
  rwa [Nat.zero_add] at this

/-! ## ZRLE and ZRLD (R1010, R1011) -/

theorem exec_zrle {s : State} {src n : Word} (h : ReadyZrle s src n)
    (hroom : s.outp.toNat + (zrlEncode (readBytes s src.toNat n.toNat)).length ≤ s.outEnd.toNat) :
    exec (.zrle src n) s =
      .next (complete (advanceOutput (zrlEncode (readBytes s src.toNat n.toNat)).length
        (writeBytes s s.outp.toNat (zrlEncode (readBytes s src.toNat n.toNat))))) := by
  unfold exec execZrle
  exact runCommand_ok (firstError_zrle h) (if_neg (by omega))

theorem exec_zrld {s : State} {dst n : Word} {values : List Byte} {used : Nat}
    (h : ReadyZrld s dst n)
    (hd : zrlDecode (readBytes s s.inp.toNat (s.inEnd.toNat - s.inp.toNat)) n.toNat =
      some (values, used)) :
    exec (.zrld dst n) s =
      .next (complete (advanceInput used (writeBytes s dst.toNat values))) := by
  unfold exec execZrld
  exact runCommand_ok (firstError_zrld h) (by rw [hd])

/-- Settles O54: the code is written at OUTP, whose move does not wrap as OUT_END is a word. -/
theorem zrle_result : Obligations.zrle_result := by
  intro s src n h out hroom
  exact ⟨_, exec_zrle h hroom, completed_lmem_cursors s _ _ _ _ _, ⟨rfl, rfl⟩, rfl,
    toNat_cursorPlus hroom, readBytes_writeBytes s s.outp.toNat out, sameBytesOutside_writeBytes rfl⟩

/-- Settles O55: n values are written, and the bytes consumed lie before IN_END, so the move of INP does
not wrap. -/
theorem zrld_result : Obligations.zrld_result := by
  intro s dst n values used h hd
  obtain ⟨hlength, hused⟩ := length_zrlDecode hd
  rw [length_readBytes] at hused
  obtain ⟨horder, -⟩ := h.cursors
  refine ⟨_, exec_zrld h hd, completed_lmem_cursors s _ _ _ _ _, ⟨rfl, rfl⟩, rfl,
    toNat_cursorPlus (cursor := s.inp) (stop := s.inEnd) (by omega), ?_,
    sameBytesOutside_writeBytes hlength⟩
  rw [← hlength]
  exact readBytes_writeBytes s dst.toNat values

/-! ## The length of a code (R1002) -/

/-- Three bytes for two values, a zero and the literal after it, are the worst rate. A first zero without
such a literal costs half a byte more, and zeros counted before the sequence cost their pair. -/
theorem length_zrlEncodeFrom_le {run : Nat} (h : run < 255) (values : List Byte) :
    2 * (zrlEncodeFrom run values).length ≤ 3 * values.length + if run = 0 then 1 else 4 := by
  induction values generalizing run with
  | nil =>
    rw [zrlEncodeFrom_nil, length_runPair]
    split <;> simp
  | cons b values ih =>
    have hvalues : 2 * (zrlEncode values).length ≤ 3 * values.length + 1 := ih (by omega)
    by_cases hb : b = 0#8
    · subst hb
      by_cases hrun : run + 1 < 255
      · have hnext := ih hrun
        rw [if_neg (Nat.succ_ne_zero run)] at hnext
        rw [zrlEncodeFrom_zero hrun, List.length_cons]
        split <;> omega
      · obtain rfl : run = 254 := by omega
        rw [zrlEncodeFrom_full, List.length_append, length_runPair, List.length_cons,
          if_neg (by omega), if_neg (by omega)]
        omega
    · rw [zrlEncodeFrom_literal hb, List.length_append, length_runPair, List.length_cons,
        List.length_cons]
      split <;> omega

theorem length_zrlEncode_le (values : List Byte) :
    (zrlEncode values).length ≤ (3 * values.length + 1) / 2 := by
  have : 2 * (zrlEncode values).length ≤ 3 * values.length + 1 :=
    length_zrlEncodeFrom_le (run := 0) (by omega) values
  omega

/-- One zero counted, and after it literals with a zero each: three bytes for each of them. -/
theorem length_zrlEncodeFrom_alternating {bs : List Byte} (h : ∀ b ∈ bs, b ≠ 0#8) :
    (zrlEncodeFrom 1 (bs.flatMap fun b => [b, 0#8])).length = 3 * bs.length + 2 := by
  induction bs with
  | nil => rfl
  | cons b bs ih =>
    obtain ⟨hb, h⟩ := List.forall_mem_cons.1 h
    rw [List.flatMap_cons, List.cons_append, List.singleton_append, zrlEncodeFrom_literal hb,
      zrlEncode, zrlEncodeFrom_zero (by omega), List.length_append, length_runPair,
      List.length_cons, ih h, List.length_cons, if_neg (by omega)]
    omega

theorem length_alternating (bs : List Byte) :
    (bs.flatMap fun b => [b, 0#8]).length = 2 * bs.length := by
  induction bs with
  | nil => rfl
  | cons b bs ih =>
    rw [List.flatMap_cons, List.length_append, ih, List.length_cons]
    simp only [List.length_cons, List.length_nil]
    omega

theorem length_zrlEncode_zeros (z : Nat) :
    (zrlEncode (List.replicate z 0#8)).length = 2 * ceilDiv z 255 := by
  have hrun := zrlEncode_run z (rest := []) (by simp)
  rw [zrlEncode_nil, List.append_nil, List.append_nil] at hrun
  rw [hrun, ceilDiv, List.length_append, length_runPair]
  simp only [List.length_flatten, List.map_replicate, List.sum_replicate, List.length_cons,
    List.length_nil, smul_eq_mul]
  split <;> omega

/-- Single zeros between literals, first and last, reach the bound. -/
theorem length_zrlEncode_worst {bs : List Byte} (h : ∀ b ∈ bs, b ≠ 0#8) :
    (zrlEncode (0#8 :: bs.flatMap fun b => [b, 0#8])).length =
      (3 * (0#8 :: bs.flatMap fun b => [b, 0#8]).length + 1) / 2 := by
  rw [zrlEncode, zrlEncodeFrom_zero (by omega), length_zrlEncodeFrom_alternating h,
    List.length_cons, length_alternating]
  omega

/-- Settles O53: the bound by induction with the counted zeros, its worst case, the code of zeros from
the encoder's rule, and ZRLE's completion from the bound. -/
theorem zrl_length : Obligations.zrl_length := by
  refine ⟨length_zrlEncode_le, fun _ => length_zrlEncode_worst, length_zrlEncode_zeros,
    fun s src n h hroom => ?_⟩
  have hcode := length_zrlEncode_le (readBytes s src.toNat n.toNat)
  rw [length_readBytes] at hcode
  obtain ⟨t, ht, hcompleted, -⟩ := zrle_result s src n h (by omega)
  exact ⟨t, ht, hcompleted⟩

end Sys2Proof.Machine
end

section
/-! SUPPORT. The motion search (spec/47_motion.md R1102 to R1106): sign and zeros of the score, and where
the search ends. -/

namespace Sys2Proof.Machine

/-! ## The parts of fabs and of a negated datum (00_scope.md R17) -/

@[simp] theorem f64Exponent_negate (x : F64) : f64Exponent (f64Negate x) = f64Exponent x := by
  simp [f64Exponent, f64Negate, BitVec.extractLsb'_xor]

@[simp] theorem f64Fraction_negate (x : F64) : f64Fraction (f64Negate x) = f64Fraction x := by
  simp [f64Fraction, f64Negate, BitVec.extractLsb'_xor]

@[simp] theorem f64Sign_negate (x : F64) : f64Sign (f64Negate x) = !f64Sign x := by
  have hmask : (0x8000000000000000#64).msb = true := by decide
  rw [f64Sign, f64Negate, BitVec.msb_xor, hmask, Bool.xor_true, f64Sign]

@[simp] theorem f64Exponent_fabs (x : F64) : f64Exponent (fabs x) = f64Exponent x := by
  have hmask : (0x7FFFFFFFFFFFFFFF#64).extractLsb' 52 11 = BitVec.allOnes 11 := by decide
  rw [f64Exponent, fabs, BitVec.extractLsb'_and, hmask, BitVec.and_allOnes, f64Exponent]

@[simp] theorem f64Fraction_fabs (x : F64) : f64Fraction (fabs x) = f64Fraction x := by
  have hmask : (0x7FFFFFFFFFFFFFFF#64).extractLsb' 0 52 = BitVec.allOnes 52 := by decide
  rw [f64Fraction, fabs, BitVec.extractLsb'_and, hmask, BitVec.and_allOnes, f64Fraction]

@[simp] theorem f64Sign_fabs (x : F64) : f64Sign (fabs x) = false := by
  have hmask : (0x7FFFFFFFFFFFFFFF#64).msb = false := by decide
  rw [f64Sign, fabs, BitVec.msb_and, hmask, Bool.and_false]

@[simp] theorem f64IsNaN_negate (x : F64) : f64IsNaN (f64Negate x) = f64IsNaN x := by
  simp [f64IsNaN]

@[simp] theorem f64IsInf_negate (x : F64) : f64IsInf (f64Negate x) = f64IsInf x := by
  simp [f64IsInf]

@[simp] theorem f64IsNaN_fabs (x : F64) : f64IsNaN (fabs x) = f64IsNaN x := by
  simp [f64IsNaN]

@[simp] theorem f64IsZero_fabs (x : F64) : f64IsZero (fabs x) = f64IsZero x := by
  simp [f64IsZero]

@[simp] theorem f64Value_negate (x : F64) : f64Value (f64Negate x) = -f64Value x := by
  have hunits : f64Units (f64Negate x) = f64Units x := by simp [f64Units]
  rw [f64Value, f64Value, hunits, f64Sign_negate]
  cases f64Sign x <;> simp

/-! ## A datum less itself (R1113) -/

theorem fsub_self_of_finite {x : F64} (h : f64Exponent x ≠ 2047) : fsub x x = f64Zero := by
  have hsign : (f64Sign x && !f64Sign x) = false := Bool.and_not_self _
  simp only [fsub, fadd, f64IsNaN_negate, f64IsInf_negate, f64Value_negate, f64Sign_negate,
    f64IsNaN_of_finite h, f64IsInf_of_finite h, Int.add_right_neg, if_true, Bool.or_self,
    Bool.false_eq_true, if_false, hsign]
  rfl

theorem f64Exponent_of_inf {x : F64} (h : f64IsInf x = true) : f64Exponent x = 2047 := by
  simp only [f64IsInf, Bool.and_eq_true, beq_iff_eq] at h
  exact h.1

theorem f64IsNaN_canonical : f64IsNaN f64NaN = true := by decide

theorem f64IsNaN_fsub_self {x : F64} (h : f64Exponent x = 2047) : f64IsNaN (fsub x x) = true := by
  have hclass : f64IsNaN x = true ∨ f64IsNaN x = false ∧ f64IsInf x = true := by
    simp only [f64IsNaN, f64IsInf, h, beq_self_eq_true, Bool.true_and, bne_iff_ne, bne_eq_false_iff_eq,
      beq_iff_eq]
    omega
  rcases hclass with hnan | ⟨hnan, hinf⟩
  · simp [fsub, fadd, hnan, f64IsNaN_canonical]
  · simp [fsub, fadd, hnan, hinf, f64IsNaN_canonical]

/-- A zero of either sign or a NaN: the absolute difference of a sample and itself. -/
def ZeroOrNaN (x : F64) : Prop := f64IsZero x = true ∨ f64IsNaN x = true

theorem zeroOrNaN_fabs_fsub_self (x : F64) : ZeroOrNaN (fabs (fsub x x)) := by
  unfold ZeroOrNaN
  rw [f64IsZero_fabs, f64IsNaN_fabs]
  by_cases h : f64Exponent x = 2047
  · exact .inr (f64IsNaN_fsub_self h)
  · exact .inl (by rw [fsub_self_of_finite h]; decide)

theorem zeroOrNaN_fadd {a b : F64} (ha : ZeroOrNaN a) (hb : ZeroOrNaN b) : ZeroOrNaN (fadd a b) := by
  by_cases hn : f64IsNaN a = true ∨ f64IsNaN b = true
  · refine .inr ?_
    rw [fadd, if_pos (by simpa using hn), f64IsNaN_canonical]
  · obtain ⟨hna, hnb⟩ := not_or.1 hn
    refine .inl ?_
    rw [eq_f64Pack_of_zero (ha.resolve_right hna), eq_f64Pack_of_zero (hb.resolve_right hnb)]
    cases f64Sign a <;> cases f64Sign b <;> decide

/-! ## The score has no sign (R1105) -/

theorem nearestEven_le (num den : Nat) : nearestEven num den ≤ num / den + 1 := by
  unfold nearestEven
  dsimp only
  split <;> omega

theorem roundMagnitude_lt (num den : Nat) : roundMagnitude num den < 2 ^ 63 := by
  unfold roundMagnitude
  dsimp only
  split
  · have := nearestEven_le num den
    omega
  · exact lt_of_le_of_lt (min_le_right _ _) (by decide)

theorem f64Sign_pack_false {m : Nat} (h : m < 2 ^ 63) : f64Sign (f64Pack false m) = false := by
  simp only [f64Sign, f64Pack, Bool.false_eq_true, if_false, Nat.zero_add, BitVec.msb_eq_decide,
    BitVec.toNat_ofNat, decide_eq_false_iff_not]
  omega

theorem f64Value_nonneg {x : F64} (h : f64Sign x = false) : 0 ≤ f64Value x := by
  simp [f64Value, h]

theorem f64Sign_fadd {a b : F64} (ha : f64Sign a = false) (hb : f64Sign b = false) :
    f64Sign (fadd a b) = false := by
  have hsum : ¬ f64Value a + f64Value b < 0 :=
    not_lt.2 (Int.add_nonneg (f64Value_nonneg ha) (f64Value_nonneg hb))
  unfold fadd
  split
  · decide
  split
  · simp [ha, hb]
  split
  · exact hb
  dsimp only
  split
  · rw [ha]
    exact f64Sign_pack_false (by decide)
  · rw [f64Round, decide_eq_false hsum]
    exact f64Sign_pack_false (roundMagnitude_lt _ _)

/-- Whatever the sum starts with, every term has, and addition keeps, the sum has. -/
theorem loopSum_induction {P : F64 → Prop} {n m : Nat} {f : Nat → Nat → F64} (hzero : P f64Zero)
    (hadd : ∀ a b, P a → P b → P (fadd a b)) (hf : ∀ x < n, ∀ y < m, P (f x y)) :
    P (loopSum n m f) := by
  rw [← fsum_grid]
  refine List.foldlRecOn _ _ hzero fun a ha b hb => hadd a b ha ?_
  obtain ⟨x, hx, y, hy, rfl⟩ := mem_grid.1 hb
  exact hf x hx y hy

theorem f64Key_nonneg {x : F64} (h : f64Sign x = false) : 0 ≤ f64Key x := by
  unfold f64Key
  rw [h]
  split
  · exact Int.le_of_lt (pow_pos two_pos 2100)
  · exact f64Value_nonneg h

theorem f64Key_of_zero {x : F64} (h : f64IsZero x = true) : f64Key x = 0 := by
  simp [f64Key, f64IsInf_zero h, f64Value, f64Units_zero h]

/-- Nothing without a sign compares below a zero, and nothing at all below a NaN. -/
theorem flt_eq_false {a b : F64} (ha : f64Sign a = false) (hb : ZeroOrNaN b) : flt a b = false := by
  rcases hb with hb | hb
  · have hkey : ¬ f64Key a < f64Key b := by
      rw [f64Key_of_zero hb]
      exact not_lt.2 (f64Key_nonneg ha)
    rw [flt, decide_eq_false hkey, Bool.and_false]
  · simp [flt, hb]

theorem f64Sign_sadRule (tgt ref : Nat → Nat → F64) (r0 c0 bh bw : Nat) (dx dy : Int) :
    f64Sign (sadRule tgt ref r0 c0 bh bw dx dy) = false := by
  unfold sadRule
  exact loopSum_induction (P := fun a => f64Sign a = false) (by decide) (fun _ _ => f64Sign_fadd)
    fun _ _ _ _ => f64Sign_fabs _

/-- The score of the zero vector, where the planes agree over the macroblock. -/
theorem sadRule_zero {tgt ref : Nat → Nat → F64} {r0 c0 bh bw : Nat}
    (h : ∀ x < bh, ∀ y < bw, tgt (r0 + x) (c0 + y) = ref (r0 + x) (c0 + y)) :
    ZeroOrNaN (sadRule tgt ref r0 c0 bh bw 0 0) := by
  unfold sadRule
  refine loopSum_induction (.inl (by decide)) (fun _ _ => zeroOrNaN_fadd) fun x hx y hy => ?_
  have hrow : ((r0 : Int) + 0 + x).toNat = r0 + x := by omega
  have hcol : ((c0 : Int) + 0 + y).toNat = c0 + y := by omega
  rw [hrow, hcol, ← h x hx y hy]
  exact zeroOrNaN_fabs_fsub_self _

/-! ## Where the search ends (R1103, R1104, R1106) -/

theorem neighbours_unit : ∀ o ∈ neighbours, |o.1| ≤ 1 ∧ |o.2| ≤ 1 := by decide

theorem abs_displaced_le {c o : Int} {bound s : Nat} (hc : |c| ≤ bound) (ho : |o| ≤ 1) :
    |c + o * s| ≤ (bound + s : Nat) :=
  calc |c + o * s| ≤ |c| + |o * s| := abs_add_le _ _
    _ = |c| + |o| * s := by rw [abs_mul, Nat.abs_cast]
    _ ≤ bound + 1 * s := add_le_add hc (mul_le_mul_of_nonneg_right ho (Int.natCast_nonneg s))
    _ = (bound + s : Nat) := by rw [one_mul, Nat.cast_add]

/-- A valid vector of at most `bound` in both directions. -/
def Reached (h w r0 c0 bh bw bound : Nat) (v : Int × Int) : Prop :=
  ValidRule h w r0 c0 bh bw v.1 v.2 ∧ |v.1| ≤ bound ∧ |v.2| ≤ bound

section search
variable {h w r0 c0 bh bw bound : Nat} {tgt ref : Nat → Nat → F64} {center : Int × Int}

theorem Reached.mono {bound' : Nat} (hv : Reached h w r0 c0 bh bw bound center)
    (hb : bound ≤ bound') : Reached h w r0 c0 bh bw bound' center := by
  obtain ⟨hvalid, hx, hy⟩ := hv
  exact ⟨hvalid, by omega, by omega⟩

theorem Reached.zero (hr : r0 + bh ≤ h) (hc : c0 + bw ≤ w) :
    Reached h w r0 c0 bh bw 0 (0, 0) := by
  refine ⟨?_, by simp, by simp⟩
  dsimp only [ValidRule]
  omega

/-- A round moves the center by at most its step in each direction. -/
theorem Reached.round (hc : Reached h w r0 c0 bh bw bound center) (s : Nat) :
    Reached h w r0 c0 bh bw (bound + s)
      (roundRule h w tgt ref r0 c0 bh bw s center.1 center.2) := by
  unfold roundRule
  refine List.foldlRecOn
    (motive := fun best : F64 × Int × Int => Reached h w r0 c0 bh bw (bound + s) best.2) _ _
    (hc.mono (Nat.le_add_right _ _)) ?_
  rintro best hbest ⟨oy, ox⟩ ho
  obtain ⟨hoy, hox⟩ := neighbours_unit _ ho
  obtain ⟨-, hx, hy⟩ := hc
  dsimp only
  split
  next hadopt => exact ⟨hadopt.1, abs_displaced_le hx hox, abs_displaced_le hy hoy⟩
  next => exact hbest

/-- The steps of `rounds` rounds sum to at most 2^rounds - 1 (R1104). -/
theorem Reached.loop {rounds s : Nat} (hs : 2 * s ≤ 2 ^ rounds)
    (hc : Reached h w r0 c0 bh bw bound center) :
    Reached h w r0 c0 bh bw (bound + (2 ^ rounds - 1))
      (loopRule h w tgt ref r0 c0 bh bw rounds s center) := by
  induction rounds generalizing s bound center with
  | zero => exact hc.mono (Nat.le_add_right _ _)
  | succ rounds ih =>
    have hround := hc.round (tgt := tgt) (ref := ref) s
    have hpow : 2 ^ (rounds + 1) = 2 * 2 ^ rounds := pow_succ' 2 rounds
    have hpos : 0 < 2 ^ rounds := Nat.two_pow_pos rounds
    unfold loopRule
    dsimp only
    split
    · exact hround.mono (by omega)
    · have hnext : 2 * ceilDiv s 2 ≤ 2 ^ rounds := by
        rw [ceilDiv_two]
        cases rounds <;> omega
      exact (ih hnext hround).mono (by omega)

theorem roundRule_eq_center {s : Nat} {cx cy : Int}
    (hcenter : ∀ dx dy, flt (sadRule tgt ref r0 c0 bh bw dx dy)
      (sadRule tgt ref r0 c0 bh bw cx cy) = false) :
    roundRule h w tgt ref r0 c0 bh bw s cx cy = (cx, cy) := by
  unfold roundRule
  refine congrArg Prod.snd (List.foldlRecOn
    (motive := fun best => best = (sadRule tgt ref r0 c0 bh bw cx cy, cx, cy)) _ _ rfl ?_)
  rintro best rfl ⟨oy, ox⟩ -
  dsimp only
  rw [hcenter, if_neg]
  exact fun hadopt => Bool.false_ne_true hadopt.2

/-- A center that no candidate beats wins every round. -/
theorem loopRule_eq_center {rounds s : Nat} {cx cy : Int}
    (hcenter : ∀ dx dy, flt (sadRule tgt ref r0 c0 bh bw dx dy)
      (sadRule tgt ref r0 c0 bh bw cx cy) = false) :
    loopRule h w tgt ref r0 c0 bh bw rounds s (cx, cy) = (cx, cy) := by
  induction rounds generalizing s with
  | zero => rfl
  | succ rounds ih =>
    unfold loopRule
    dsimp only
    rw [roundRule_eq_center hcenter, ih, ite_self]

end search

/-- The vector the search finds for a macroblock of the frame. -/
theorem searchRule_reached {h w mr mc R : Nat} (tgt ref : Nat → Nat → F64) (hr : 8 * mr < h)
    (hc : 8 * mc < w) (hR : R ≤ 128) :
    Reached h w (8 * mr) (8 * mc) (min 8 (h - 8 * mr)) (min 8 (w - 8 * mc)) 127
      (searchRule h w tgt ref mr mc R) := by
  have hzero : Reached h w (8 * mr) (8 * mc) (min 8 (h - 8 * mr)) (min 8 (w - 8 * mc)) 0 (0, 0) :=
    .zero (by omega) (by omega)
  unfold searchRule
  split
  · exact hzero.mono (by omega)
  · exact (hzero.loop (rounds := 7) (by rw [ceilDiv_two]; omega)).mono (by omega)

theorem searchRule_eq_zero {h w mr mc R : Nat} {tgt ref : Nat → Nat → F64}
    (heq : ∀ r < h, ∀ c < w, tgt r c = ref r c) : searchRule h w tgt ref mr mc R = (0, 0) := by
  unfold searchRule
  split
  · rfl
  · exact loopRule_eq_center fun dx dy => flt_eq_false (f64Sign_sadRule ..)
      (sadRule_zero fun x hx y hy => heq _ (by omega) _ (by omega))

/-! ## Macroblocks of a frame (R1102) -/

theorem lt_ceilDiv_eight_iff {n m : Nat} : m < ceilDiv n 8 ↔ 8 * m < n := by
  unfold ceilDiv
  omega

theorem div_eight_lt_ceilDiv {r n : Nat} (h : r < n) : r / 8 < ceilDiv n 8 :=
  lt_ceilDiv_eight_iff.2 (by omega)

end Sys2Proof.Machine
end

section
/-! SUPPORT. Motion estimation and compensation (spec/47_motion.md): what ME, PSUB and PADD write, and how
ME and PSUB agree. -/

namespace Sys2Proof.Machine

/-! ## Vector lists (20_memory.md R211) -/

theorem getElem?_vectorBytes {vs : List (Int × Int)} {m : Nat} {v : Int × Int} (h : vs[m]? = some v) :
    (vectorBytes vs)[2 * m]? = some (byteOfInt v.1) ∧
      (vectorBytes vs)[2 * m + 1]? = some (byteOfInt v.2) := by
  have hlen : ∀ l ∈ vs.map fun v => [byteOfInt v.1, byteOfInt v.2], l.length = 2 :=
    List.forall_mem_map.2 fun _ _ => rfl
  have hentry : ∀ {j}, j < 2 → (vectorBytes vs)[2 * m + j]? = [byteOfInt v.1, byteOfInt v.2][j]? :=
    fun hj => by
      rw [vectorBytes, List.flatMap_def, getElem?_flatten_of_forall hlen m hj, List.getElem?_map, h]
      rfl
  exact ⟨hentry (j := 0) (by omega), hentry (j := 1) (by omega)⟩

theorem readI8_vectorBytes {s : State} {base m : Nat} {vs : List (Int × Int)} {v : Int × Int}
    (h : vs[m]? = some v) (hx : |v.1| ≤ 127) (hy : |v.2| ≤ 127) :
    readI8 (writeBytes s base (vectorBytes vs)) (base + 2 * m) = v.1 ∧
      readI8 (writeBytes s base (vectorBytes vs)) (base + 2 * m + 1) = v.2 := by
  obtain ⟨hdx, hdy⟩ := getElem?_vectorBytes h
  rw [abs_le] at hx hy
  unfold readI8
  rw [readByte_writeBytes_getElem? hdx, Nat.add_assoc, readByte_writeBytes_getElem? hdy]
  exact ⟨sext8_byteOfInt _ (by omega) (by omega), sext8_byteOfInt _ (by omega) (by omega)⟩

/-! ## Reads that a command leaves alone -/

theorem SameBytesOutsideRegions.readF64 {rs : List Region} {s t : State}
    (h : SameBytesOutsideRegions rs s t) {a : Nat} (ha : ∀ r ∈ rs, Apart r.base r.len a 8) :
    readF64 t a = readF64 s a := by
  refine readF64_congr fun k hk1 hk2 => h k fun r hr => ?_
  by_contra hin
  exact ha r hr k (by omega) (by omega) hk1 hk2

@[simp] theorem readI8_complete (s : State) (a : Nat) : readI8 (complete s) a = readI8 s a := rfl

/-! ## ME (R1110) -/

/-- The vector ME finds for macroblock (mr, mc) of the planes in LMEM. -/
def meVector (s : State) (ref tgt d radius : Word) (mr mc : Nat) : Int × Int :=
  searchRule (dimsH d) (dimsW d) (planeSample s tgt.toNat (dimsW d))
    (planeSample s ref.toNat (dimsW d)) mr mc radius.toNat

/-- The state with ME's vector list and then its residual plane written. -/
def meWritten (ref tgt vec res d radius : Word) (s : State) : State :=
  let vs := searchAll s ref.toNat tgt.toNat (dimsH d) (dimsW d) radius.toNat
  writeF64s (writeBytes s vec.toNat (vectorBytes vs)) res.toNat
    (lumaResidual s ref.toNat tgt.toNat (dimsH d) (dimsW d) vs)

section me
variable {s : State} {ref tgt vec res d radius : Word} {mr mc : Nat}
  (h : ReadyMe s ref tgt vec res d radius)
include h

theorem exec_me :
    exec (.me ref tgt vec res d radius) s =
      .next (complete (meWritten ref tgt vec res d radius s)) := by
  unfold exec execMe
  exact runCommand_ok (firstError_me h) rfl

theorem meVector_reached (hmr : mr < ceilDiv (dimsH d) 8) (hmc : mc < ceilDiv (dimsW d) 8) :
    Reached (dimsH d) (dimsW d) (8 * mr) (8 * mc) (min 8 (dimsH d - 8 * mr))
      (min 8 (dimsW d - 8 * mc)) 127 (meVector s ref tgt d radius mr mc) :=
  searchRule_reached _ _ (lt_ceilDiv_eight_iff.1 hmr) (lt_ceilDiv_eight_iff.1 hmc) h.radius

theorem getElem?_searchAll (hmr : mr < ceilDiv (dimsH d) 8) (hmc : mc < ceilDiv (dimsW d) 8) :
    (searchAll s ref.toNat tgt.toNat (dimsH d) (dimsW d) radius.toNat)[
      mr * ceilDiv (dimsW d) 8 + mc]? = some (meVector s ref tgt d radius mr mc) := by
  rw [searchAll, getElem?_grid _ _ _ mr mc hmr hmc, searchVector_eq_searchRule (hr := h.radius)]
  rfl

/-- The residual plane is apart from the vector list, so the vectors stay as written. -/
theorem readI8_meWritten (hmr : mr < ceilDiv (dimsH d) 8) (hmc : mc < ceilDiv (dimsW d) 8) :
    let a := vec.toNat + 2 * (mr * ceilDiv (dimsW d) 8 + mc)
    readI8 (meWritten ref tgt vec res d radius s) a = (meVector s ref tgt d radius mr mc).1 ∧
      readI8 (meWritten ref tgt vec res d radius s) (a + 1) =
        (meVector s ref tgt d radius mr mc).2 := by
  intro a
  obtain ⟨-, hx, hy⟩ := meVector_reached h hmr hmc
  have hindex := grid_index_lt hmr hmc
  have hapart := h.apart.1 res (by simp)
  have hsame : ∀ k, a ≤ k → k < a + 2 →
      readI8 (meWritten ref tgt vec res d radius s) k =
        readI8 (writeBytes s vec.toNat
          (vectorBytes (searchAll s ref.toNat tgt.toNat (dimsH d) (dimsW d) radius.toNat))) k := by
    intro k hk1 hk2
    refine congrArg sext8 (readByte_writeF64s_outside _ _ _ _ ?_)
    rw [length_lumaResidual, ← Nat.mul_assoc]
    by_contra hin
    exact hapart k (by omega) (by rw [Nat.mul_assoc]; omega) (by omega) (by omega)
  rw [hsame a (by omega) (by omega), hsame (a + 1) (by omega) (by omega)]
  exact readI8_vectorBytes (getElem?_searchAll h hmr hmc) hx hy

theorem readF64_meWritten {r c : Nat} (hr : r < dimsH d) (hc : c < dimsW d) :
    let v := meVector s ref tgt d radius (r / 8) (c / 8)
    readF64 (meWritten ref tgt vec res d radius s) (res.toNat + 8 * (r * dimsW d + c)) =
      fsub (planeSample s tgt.toNat (dimsW d) r c)
        (planeSample s ref.toNat (dimsW d) (r + v.2).toNat (c + v.1).toNat) := by
  intro v
  have hv : (searchAll s ref.toNat tgt.toNat (dimsH d) (dimsW d) radius.toNat).getD
      (r / 8 * ceilDiv (dimsW d) 8 + c / 8) (0, 0) = v := by
    rw [List.getD, getElem?_searchAll h (div_eight_lt_ceilDiv hr) (div_eight_lt_ceilDiv hc)]
    rfl
  rw [meWritten, lumaResidual, readF64_writeF64s_grid _ hr hc, hv]

end me

/-- Settles O56: the vector list and the residual plane read back as written, and the search of the
model is the rule's loop. -/
theorem me_result : Obligations.me_result := by
  intro s ref tgt vec res d radius h hh w mbc tgtAt refAt
  have hx := exec_me h
  refine ⟨_, hx, completedQuietly_lmem s _, exec_sameBytesOutside hx, fun mr mc hmr hmc => ?_⟩
  obtain ⟨hdx, hdy⟩ := readI8_meWritten h hmr hmc
  refine ⟨hdx, hdy, fun x y hx8 hy8 => ?_⟩
  have hsample := readF64_meWritten h (r := 8 * mr + x) (c := 8 * mc + y) (by omega) (by omega)
  have hrow : (8 * mr + x) / 8 = mr := by omega
  have hcol : (8 * mc + y) / 8 = mc := by omega
  rw [hrow, hcol] at hsample
  rw [readF64_complete, Nat.add_assoc (_ * w)]
  exact_mod_cast hsample

/-- Settles O57: the vectors ME wrote are those of its search, which adopts valid candidates only and
moves by at most the sum of its steps. -/
theorem search_vectors_valid : Obligations.search_vectors_valid := by
  intro s ref tgt vec res d radius h hh w mbc
  obtain ⟨t, ht, -, -, hblocks⟩ := me_result s ref tgt vec res d radius h
  refine ⟨t, ht, fun mr mc hmr hmc => ?_⟩
  obtain ⟨hdx, hdy, -⟩ := hblocks mr mc hmr hmc
  rw [hdx, hdy]
  exact meVector_reached h hmr hmc

/-! ## PSUB and PADD (R1109, R1111, R1112) -/

theorem compensateCommand_result (f : F64 → F64 → F64) {s : State} {c : Bool}
    {base ref vec dst d : Word} (h : ReadyCompensate s c base ref vec dst d) :
    let ph := planeRows c d
    let pw := planeCols c d
    ∃ t, compensateCommand f c base ref vec dst d s = .next t ∧ CompletedQuietly s t ∧
      SameBytesOutside dst.toNat (8 * ph * pw) s t ∧
      ∀ r k, r < ph → k < pw →
        readF64 t (dst.toNat + 8 * (r * pw + k)) =
          f (planeSample s base.toNat pw r k)
            (prediction s ref.toNat vec.toNat ph pw (ceilDiv (dimsW d) 8) r k) := by
  intro ph pw
  refine ⟨_, runCommand_ok (firstError_compensate h) rfl, completedQuietly_lmem s _,
    sameBytesOutside_writeF64s (by rw [length_compensate, Nat.mul_assoc]), fun r k hr hk => ?_⟩
  rw [readF64_complete, compensate, readF64_writeF64s_grid _ hr hk]

theorem exec_psub_forms (c : Bool) (tgt ref vec dst d : Word) (s : State) :
    exec (if c then .psubC tgt ref vec dst d else .psub tgt ref vec dst d) s =
      compensateCommand fsub c tgt ref vec dst d s := by
  cases c <;> rfl

theorem exec_padd_forms (c : Bool) (res ref vec dst d : Word) (s : State) :
    exec (if c then .paddC res ref vec dst d else .padd res ref vec dst d) s =
      compensateCommand fadd c res ref vec dst d s := by
  cases c <;> rfl

/-- Settles O58: the four commands are one, with subtraction or addition, and what it writes reads
back. -/
theorem compensation_results : Obligations.compensation_results := by
  intro s c base ref vec dst d h ph pw at_ pred
  rw [exec_psub_forms, exec_padd_forms]
  exact ⟨compensateCommand_result fsub h, compensateCommand_result fadd h⟩

/-! ## PSUB with the vectors of ME (R1108) -/

/-- A command's checks look at the parameters of the state only. -/
theorem ReadyCompensate.of_params {s t : State} {c : Bool} {base ref vec dst d : Word}
    (h : ReadyCompensate s c base ref vec dst d) (hp : t.params = s.params) :
    ReadyCompensate t c base ref vec dst d where
  dims := h.dims
  fits := by
    simp only [Fits, hp]
    exact h.fits
  apart := h.apart

theorem clampInt_of_mem {n lo hi : Int} (hlo : lo ≤ n) (hhi : n ≤ hi) : clampInt n lo hi = n := by
  rw [clampInt, max_eq_left hlo, min_eq_left hhi]

section me
variable {s : State} {ref tgt vec res d radius : Word} {r c : Nat}
  (h : ReadyMe s ref tgt vec res d radius) (hr : r < dimsH d) (hc : c < dimsW d)
include h hr hc

/-- Both destinations of ME are apart from its source planes. -/
theorem planeSample_meWritten {p : Word} (hp : p ∈ [ref, tgt]) :
    planeSample (complete (meWritten ref tgt vec res d radius s)) p.toNat (dimsW d) r c =
      planeSample s p.toNat (dimsW d) r c := by
  have hvec := h.apart.1 p (by simp only [List.mem_cons] at hp ⊢; tauto)
  have hres := h.apart.2 p hp
  refine (exec_sameBytesOutside (exec_me h)).readF64 fun q hq => ?_
  obtain rfl | rfl : q = ⟨vec.toNat, 2 * ceilDiv (dimsH d) 8 * ceilDiv (dimsW d) 8⟩ ∨
      q = ⟨res.toNat, 8 * dimsH d * dimsW d⟩ := by
    simpa [destsOf, namedDests, streamWritten, Named.region, Kind.size] using hq
  · exact hvec.element hr hc
  · exact hres.element hr hc

/-- The sample that a vector of ME points at is inside the plane. -/
theorem meVector_in_plane :
    let v := meVector s ref tgt d radius (r / 8) (c / 8)
    (0 ≤ (r + v.2 : Int) ∧ (r + v.2 : Int) ≤ (dimsH d : Int) - 1) ∧
      0 ≤ (c + v.1 : Int) ∧ (c + v.1 : Int) ≤ (dimsW d : Int) - 1 := by
  dsimp only
  obtain ⟨⟨htop, hleft, hbottom, hright⟩, -⟩ :=
    meVector_reached h (div_eight_lt_ceilDiv hr) (div_eight_lt_ceilDiv hc)
  omega

/-- PSUB's clamps leave the vectors of ME as they are. -/
theorem prediction_meWritten :
    let v := meVector s ref tgt d radius (r / 8) (c / 8)
    prediction (complete (meWritten ref tgt vec res d radius s)) ref.toNat vec.toNat (dimsH d)
        (dimsW d) (ceilDiv (dimsW d) 8) r c =
      planeSample s ref.toNat (dimsW d) (r + v.2).toNat (c + v.1).toNat := by
  intro v
  obtain ⟨⟨hr0, hr1⟩, hc0, hc1⟩ := meVector_in_plane h hr hc
  obtain ⟨hdx, hdy⟩ := readI8_meWritten h (div_eight_lt_ceilDiv hr) (div_eight_lt_ceilDiv hc)
  unfold prediction
  dsimp only
  rw [readI8_complete, readI8_complete, hdx, hdy, clampInt_of_mem hr0 hr1, clampInt_of_mem hc0 hc1]
  exact planeSample_meWritten h (by omega) (by omega) (by simp)

end me

/-- Settles O59: PSUB's checks still pass after ME, and each of its samples is computed from the same
target sample and, the vectors being valid, the same reference sample as ME's residual. -/
theorem me_residual_is_psub : Obligations.me_residual_is_psub := by
  intro s ref tgt vec res dst d radius h hpsub
  have hparams : (complete (meWritten ref tgt vec res d radius s)).params = s.params := rfl
  obtain ⟨⟨u, hu, -, -, hsub⟩, -⟩ :=
    compensation_results _ false tgt ref vec dst d (hpsub.of_params hparams)
  refine ⟨_, u, exec_me h, hu, fun r c hr hc => (hsub r c hr hc).trans ?_⟩
  rw [readF64_complete, readF64_meWritten h hr hc, ← prediction_meWritten h hr hc,
    ← planeSample_meWritten h hr hc (p := tgt) (by simp)]
  rfl

/-! ## Equal planes (R1113) -/

theorem exists_grid_index {rows cols k : Nat} (hk : k < rows * cols) :
    ∃ r < rows, ∃ c < cols, r * cols + c = k := by
  have hcols : 0 < cols := Nat.pos_of_ne_zero (by rintro rfl; simp at hk)
  exact ⟨k / cols, (Nat.div_lt_iff_lt_mul hcols).2 hk, k % cols, Nat.mod_lt _ hcols,
    Nat.div_add_mod' k cols⟩

theorem eq_zero_of_sext8 {b : Byte} (h : sext8 b = 0) : b = 0 :=
  BitVec.eq_of_toInt_eq (h.trans BitVec.toInt_zero.symm)

/-- Settles O60: on equal planes no candidate beats the zero vector, so each residual sample is a
sample less itself. -/
theorem me_of_equal_planes : Obligations.me_of_equal_planes := by
  intro s ref tgt vec res d radius h hequal
  have hplanes : ∀ r < dimsH d, ∀ c < dimsW d,
      planeSample s tgt.toNat (dimsW d) r c = planeSample s ref.toNat (dimsW d) r c :=
    fun r hr c hc => hequal _ (grid_index_lt hr hc)
  have hvector : ∀ mr mc, meVector s ref tgt d radius mr mc = (0, 0) :=
    fun mr mc => searchRule_eq_zero hplanes
  refine ⟨_, exec_me h, fun k hk => ?_, fun k hk => ?_⟩
  · obtain ⟨mr, hmr, mc, hmc, hm⟩ : ∃ mr < ceilDiv (dimsH d) 8, ∃ mc < ceilDiv (dimsW d) 8,
        mr * ceilDiv (dimsW d) 8 + mc = k / 2 :=
      exists_grid_index (by rw [Nat.mul_assoc] at hk; omega)
    obtain ⟨hdx, hdy⟩ := readI8_meWritten h hmr hmc
    rw [hm, hvector] at hdx hdy
    rw [readByte_complete]
    rcases Nat.mod_two_eq_zero_or_one k with hpar | hpar
    · have hk2 : vec.toNat + k = vec.toNat + 2 * (k / 2) := by omega
      rw [hk2]
      exact eq_zero_of_sext8 hdx
    · have hk2 : vec.toNat + k = vec.toNat + 2 * (k / 2) + 1 := by omega
      rw [hk2]
      exact eq_zero_of_sext8 hdy
  · obtain ⟨r, hr, c, hc, rfl⟩ := exists_grid_index hk
    have hsample : readF64 (complete (meWritten ref tgt vec res d radius s))
          (res.toNat + 8 * (r * dimsW d + c)) =
        fsub (planeSample s tgt.toNat (dimsW d) r c) (planeSample s tgt.toNat (dimsW d) r c) := by
      have hv := readF64_meWritten h hr hc
      simp only [hvector, Int.add_zero, Int.toNat_natCast] at hv
      rw [readF64_complete, hv, hplanes r hr c hc]
    rw [hsample]
    exact ⟨fsub_self_of_finite, fun hinf => f64IsNaN_fsub_self (f64Exponent_of_inf hinf)⟩

end Sys2Proof.Machine
end

section
/-! SUPPORT. Errors (spec/60_exceptions.md): each check of R1303 in the terms of the opcode map, which of
them a command reports, and the errors that arise while it computes (R1304). -/

namespace Sys2Proof.Machine

/-! ## The checks of a command, by the table of 30_encoding.md R306 -/

theorem footprintOf_badDims (i : Instr) (s : State) :
    (footprintOf i s).badDims = true ↔
      ∃ d, dimsOperand i = some d ∧ (dimsH d = 0 ∨ dimsW d = 0) := by
  rw [badDims_eq_true_iff, footprintOf_dims]

/-- Step 5 of R1303. -/
theorem footprintOf_badRange (i : Instr) (s : State) :
    (footprintOf i s).badRange s.params.lmemSize = true ↔
      (∃ p ∈ namedSources i ++ namedDests i, s.params.lmemSize < p.base.toNat + p.kind.size) ∨
      (∃ addr stop, (i = .setin addr stop ∨ i = .setout addr stop) ∧
        s.params.lmemSize < stop.toNat) ∨
      ∃ lo hi, cursorsOf i s = some (lo, hi) ∧ ¬ CursorsSane s lo hi := by
  have hnamed : (∀ o ∈ (namedSources i ++ namedDests i).map Named.operand,
      o.region.base + o.region.len ≤ s.params.lmemSize) ↔
      ¬ ∃ p ∈ namedSources i ++ namedDests i, s.params.lmemSize < p.base.toNat + p.kind.size := by
    simp only [List.forall_mem_map, not_exists, not_and, Nat.not_lt]
    rfl
  have hstop : (∀ e, (footprintOf i s).stop = some e → e.toNat ≤ s.params.lmemSize) ↔
      ¬ ∃ addr stop, (i = .setin addr stop ∨ i = .setout addr stop) ∧
        s.params.lmemSize < stop.toNat := by
    simp only [footprintOf_stop, not_exists, not_and, Nat.not_lt]
    exact ⟨fun h addr stop hi => h stop ⟨addr, hi⟩, fun h stop ⟨addr, hi⟩ => h addr stop hi⟩
  have hcursors : (∀ lo hi, cursorsOf i s = some (lo, hi) → lo.toNat ≤ hi.toNat ∧
      hi.toNat ≤ s.params.lmemSize) ↔
      ¬ ∃ lo hi, cursorsOf i s = some (lo, hi) ∧ ¬ CursorsSane s lo hi := by
    simp only [not_exists, not_and, not_not]
    rfl
  rw [← Bool.not_eq_false, badRange_eq_false_iff, footprintOf_operands, footprintOf_cursors, hnamed,
    hstop, hcursors, ← not_or, ← not_or, not_not]

/-- Step 6 of R1303. -/
theorem footprintOf_badAlign (i : Instr) (s : State) :
    (footprintOf i s).badAlign = true ↔
      ∃ p ∈ namedSources i ++ namedDests i, p.kind.real = true ∧ p.base.toNat % 8 ≠ 0 := by
  rw [← Bool.not_eq_false, badAlign_eq_false_iff, footprintOf_operands]
  simp only [List.forall_mem_map, not_forall, exists_prop]
  rfl

/-- Step 8 of R1303. -/
theorem footprintOf_badOverlap (i : Instr) (s : State) :
    (footprintOf i s).badOverlap = true ↔
      (∃ d ∈ destsOf i s, ∃ r ∈ sourcesOf i s, ¬ Apart d.base d.len r.base r.len) ∨
      ¬ (destsOf i s).Pairwise fun r q => Apart r.base r.len q.base q.len := by
  rw [← Bool.not_eq_false, badOverlap_eq_false_iff, footprintOf_destRegions,
    footprintOf_sourceRegions, not_and_or]
  simp only [← apart_iff, not_forall, exists_prop]

/-- Step 7 of R1303 passes for every command but SPUT and SGET, and for those that fit. -/
theorem footprintOf_limit_eq_none {i : Instr} {s : State}
    (hput : ¬ ∃ src n, i = .sput src n ∧ s.outEnd.toNat < s.outp.toNat + n.toNat)
    (hget : ¬ ∃ dst n, i = .sget dst n ∧ s.inEnd.toNat < s.inp.toNat + n.toNat) :
    (footprintOf i s).limit = none := by
  rw [Option.eq_none_iff_forall_ne_some]
  intro e he
  rcases (footprintOf_limit i s e).1 he with ⟨src, n, hi, hlt, -⟩ | ⟨dst, n, hi, hlt, -⟩
  · exact hput ⟨src, n, hi, hlt⟩
  · exact hget ⟨dst, n, hi, hlt⟩

/-! ## The first error, by the first check that fails (R1303) -/

section
variable {f : Footprint} {size : Nat}

theorem firstError_of_badDims (h : f.badDims = true) : f.firstError size = some .dims := by
  rw [Footprint.firstError, if_pos h]

variable (hd : ¬ f.badDims = true)
include hd

theorem firstError_of_badArg (h : f.argOk = false) : f.firstError size = some .arg := by
  rw [Footprint.firstError, if_neg hd, if_pos (by simp [h])]

variable (ha : ¬ f.argOk = false)
include ha

theorem firstError_of_badRange (h : f.badRange size = true) : f.firstError size = some .range := by
  rw [Footprint.firstError, if_neg hd, if_neg (by simpa using ha), if_pos h]

variable (hr : ¬ f.badRange size = true)
include hr

theorem firstError_of_badAlign (h : f.badAlign = true) : f.firstError size = some .align := by
  rw [Footprint.firstError, if_neg hd, if_neg (by simpa using ha), if_neg hr, if_pos h]

variable (hl : ¬ f.badAlign = true)
include hl

theorem firstError_of_limit {e : ErrCode} (h : f.limit = some e) : f.firstError size = some e := by
  rw [Footprint.firstError, if_neg hd, if_neg (by simpa using ha), if_neg hr, if_neg hl, h]

variable (hn : f.limit = none)
include hn

theorem firstError_of_badOverlap (h : f.badOverlap = true) :
    f.firstError size = some .overlap := by
  rw [Footprint.firstError, if_neg hd, if_neg (by simpa using ha), if_neg hr, if_neg hl, hn]
  exact if_pos h

end

/-! ## The step of a busy machine (R1303) -/

theorem engineStep_decodeError {s : State} {e : DecodeError} (hb : s.busy = true)
    (hf : s.cp.toNat + 32 ≤ s.params.lmemSize)
    (hd : decodeBytes (readBytes s s.cp.toNat 32) = .error e) :
    engineStep s = .next (errorHalt (errCodeOfDecode e) s) := by
  rw [decodeBytes_readBytes] at hd
  rw [engineStep_fetched hb hf, hd]

/-- A command whose checks pass completes, or halts with its execution-time error (R1304). -/
theorem exec_of_checked {i : Instr} {s : State} (hi : i ≠ .halt)
    (h : (footprintOf i s).firstError s.params.lmemSize = none) :
    ∃ t, exec i s = .next t ∧
      (Completed s t ∨ ∃ e, executionError i = some e ∧ ErrorHalted e s t) := by
  rcases exec_cases i s with ⟨hh, -⟩ | ⟨-, e, he, -⟩ | ⟨-, -, ⟨e, he, hx⟩ | ⟨t, ht, hx⟩⟩
  · exact absurd hh hi
  · exact absurd (he.symm.trans h) (by simp)
  · exact ⟨_, hx, .inr ⟨e, he, errorHalted_unspecify e s _⟩⟩
  · exact ⟨_, hx, .inl (completed_of_frame ht)⟩

/-- Settles O5: each clause is one branch of the pre-checks, with its check read off the table of
R306. -/
theorem first_error_in_order : Obligations.first_error_in_order := by
  intro s hb hi
  rw [step_of_noMove hb hi]
  refine ⟨engineStep_fetchError hb, fun hf => ⟨engineStep_decodeError hb hf,
    engineStep_decodeError hb hf, fun i hd hne => ?_⟩⟩
  rw [engineStep_decoded hb hf hd]
  intro named sets apart badDims badArg badRange badAlign noRoom tooFew badOverlap
  have halts {e : ErrCode} (he : (footprintOf i s).firstError s.params.lmemSize = some e) :=
    exec_of_firstError hne he
  have hdims : _ ↔ badDims := footprintOf_badDims i s
  have harg : _ ↔ badArg := footprintOf_argOk_eq_false i s
  have hrange : _ ↔ badRange := footprintOf_badRange i s
  have halign : _ ↔ badAlign := footprintOf_badAlign i s
  have hlimit := footprintOf_limit i s
  have hoverlap : _ ↔ badOverlap := footprintOf_badOverlap i s
  refine ⟨fun h => ?_, fun h1 h => ?_, fun h1 h2 h => ?_, fun h1 h2 h3 h => ?_,
    fun h1 h2 h3 h4 ⟨src, n, hi, hlt⟩ => ?_, fun h1 h2 h3 h4 ⟨dst, n, hi, hlt⟩ => ?_,
    fun h1 h2 h3 h4 h5 h6 h => ?_, fun h1 h2 h3 h4 h5 h6 h7 => ?_⟩
  · exact halts (firstError_of_badDims (hdims.2 h))
  · exact halts (firstError_of_badArg (mt hdims.1 h1) (harg.2 h))
  · exact halts (firstError_of_badRange (mt hdims.1 h1) (mt harg.1 h2) (hrange.2 h))
  · exact halts (firstError_of_badAlign (mt hdims.1 h1) (mt harg.1 h2) (mt hrange.1 h3)
      (halign.2 h))
  · exact halts (firstError_of_limit (mt hdims.1 h1) (mt harg.1 h2) (mt hrange.1 h3)
      (mt halign.1 h4) ((hlimit _).2 (.inl ⟨src, n, hi, hlt, rfl⟩)))
  · exact halts (firstError_of_limit (mt hdims.1 h1) (mt harg.1 h2) (mt hrange.1 h3)
      (mt halign.1 h4) ((hlimit _).2 (.inr ⟨dst, n, hi, hlt, rfl⟩)))
  · exact halts (firstError_of_badOverlap (mt hdims.1 h1) (mt harg.1 h2) (mt hrange.1 h3)
      (mt halign.1 h4) (footprintOf_limit_eq_none h5 h6) (hoverlap.2 h))
  · refine exec_of_checked hne ((firstError_eq_none_iff _ _).2 ?_)
    exact ⟨by simpa using mt hdims.1 h1, by simpa using mt harg.1 h2, by simpa using mt hrange.1 h3,
      by simpa using mt halign.1 h4, footprintOf_limit_eq_none h5 h6,
      by simpa using mt hoverlap.1 h7⟩

/-! ## Errors that arise while a command computes (R1304) -/

theorem exec_zrle_overflow {s : State} {src n : Word} (h : ReadyZrle s src n)
    (hlong : s.outEnd.toNat <
      s.outp.toNat + (zrlEncode (readBytes s src.toNat n.toNat)).length) :
    exec (.zrle src n) s =
      .next (errorHalt .overflow (unspecify s (zrleFootprint src n s).destRegions)) := by
  unfold exec execZrle
  exact runCommand_bodyError (firstError_zrle h) (if_pos hlong)

theorem exec_zrld_malformed {s : State} {dst n : Word} (h : ReadyZrld s dst n)
    (hd : zrlDecode (readBytes s s.inp.toNat (s.inEnd.toNat - s.inp.toNat)) n.toNat = none) :
    exec (.zrld dst n) s =
      .next (errorHalt .malformed (unspecify s (zrldFootprint dst n s).destRegions)) := by
  unfold exec execZrld
  exact runCommand_bodyError (firstError_zrld h) (by rw [hd])

/-- Settles O27: ZRLE's one destination is the free part of the output stream, ZRLD's is [dst, dst+n). -/
theorem stream_errors : Obligations.stream_errors :=
  ⟨fun s _ _ h hlong => ⟨_, exec_zrle_overflow h hlong, errorHalted_unspecify .overflow s _,
      sameBytesOutside_unspecify rfl⟩,
    fun s _ _ h hd => ⟨_, exec_zrld_malformed h hd, errorHalted_unspecify .malformed s _,
      sameBytesOutside_unspecify rfl⟩⟩

theorem quantCommand_none {s : State} {c : Bool} {src dst : Word}
    (h : ReadyMove s src 512 true dst 64 false)
    (hq : quantBlock (tableOf c s) (readBlock s src.toNat) = none) :
    quantCommand c src dst s =
      .next (errorHalt .numeric (unspecify s (quantFootprint src dst).destRegions)) :=
  runCommand_bodyError (firstError_quant h) (by rw [quantTable_eq_tableOf, hq])

theorem qplaneCommand_none {s : State} {c : Bool} {src dst d : Word} (hd : DimsLegal d)
    (h : ReadyMove s src (8 * planeRows c d * planeCols c d) true dst
      (pad8 (planeRows c d) * pad8 (planeCols c d)) false)
    (hq : quantPlane (tableOf c s) s src.toNat (planeRows c d) (planeCols c d) = none) :
    qplaneCommand c src dst d s =
      .next (errorHalt .numeric (unspecify s (qplaneFootprint c src dst d).destRegions)) :=
  runCommand_bodyError (firstError_qplane hd h) (by rw [quantTable_eq_tableOf, hq])

/-- Settles O28: a block, or a padded plane, with a NaN among its quotients does not quantize. -/
theorem nan_quotient_halts : Obligations.nan_quotient_halts := by
  constructor
  · intro s c src dst h hnan
    have hq := (quantBlock_readBlock_eq_none_iff (tableOf c s) s src.toNat).2 hnan
    exact ⟨_, (exec_quant_forms c src dst s).trans (quantCommand_none h hq),
      errorHalted_unspecify .numeric s _, sameBytesOutside_unspecify rfl⟩
  · intro s c src dst d hd ph pw h hnan
    have hq := (quantPlane_eq_none_iff (tableOf c s) s src.toNat ph pw).2 hnan
    exact ⟨_, (exec_qplane_forms c src dst d s).trans (qplaneCommand_none hd h hq),
      errorHalted_unspecify .numeric s _, sameBytesOutside_unspecify rfl⟩

end Sys2Proof.Machine
end

section
/-! SUPPORT. Resets, the end of a list, and what the host cannot disturb
(spec/70_reset_and_hazards.md). -/

namespace Sys2Proof.Machine

/-! ## Resets (R1400, R1401) -/

/-- Settles O7: State.reset is an idle machine with every register at its reset value and no byte of LMEM
known, at legal parameters. -/
theorem reset_legal : Obligations.reset_legal :=
  have hparams : State.reset.params.legal = true := by decide
  (Legal.resetRegisters hparams (lmemLegal_of_nil rfl) fun _ => ⟨rfl, rfl⟩ :
    Legal (resetRegisters State.reset))

/-- A move of the host that no held access comes before. -/
theorem step_of_move {s : State} {m : HostMove} {rest : List HostMove}
    (hturn : s.busy = true ∨ s.held = []) (hi : s.inputs = m :: rest) (hm : m ≠ .wait) :
    step s = .next (hostMove m { s with inputs := rest }) := by
  rcases step_cases s with ⟨q, later, hb, hh, -⟩ | ⟨-, ⟨hn, -⟩ | ⟨later, hw, -⟩ | ⟨m', later, hm', -, hx⟩⟩
  · simp [hb, hh] at hturn
  · simp [hi] at hn
  · exact absurd (List.cons.inj (hi.symm.trans hw)).1 hm
  · obtain ⟨rfl, rfl⟩ := List.cons.inj (hi.symm.trans hm')
    exact hx

/-- rst_n going to 0, and its release, enter the same reset state but for rst_n itself. -/
theorem hostMove_reset {m : HostMove} {s : State}
    (h : m = .rstAssert ∨ (m = .rstRelease ∧ s.inReset = true)) :
    hostMove m s = { hardReset s with inReset := decide (m = .rstAssert) } := by
  rcases h with rfl | ⟨rfl, hr⟩
  · rfl
  · simp [hostMove, hr]

/-- Settles O17: both moves give the reset state, and an access in between is answered only. -/
theorem hardware_reset : Obligations.hardware_reset := by
  intro s rest hturn
  refine ⟨fun m hm hi => ?_, fun r hr hi => ?_⟩
  · have hx := step_of_move hturn hi (by rcases hm with rfl | ⟨rfl, -⟩ <;> simp)
    rw [hostMove_reset (s := { s with inputs := rest }) hm] at hx
    exact ⟨_, hx, rfl, rfl, rfl, rfl, rfl, rfl, rfl, rfl, rfl, rfl, rfl, rfl, rfl, rfl, rfl, rfl,
      rfl, rfl, decide_eq_true_iff⟩
  · rw [step_of_move hturn hi (by simp)]
    exact congrArg Host.Outcome.next (hostAccess_inReset (s := { s with inputs := rest }) hr)

@[simp] theorem unspecify_held (s : State) (rs : List Region) :
    (unspecify s rs).held = s.held := by
  rw [unspecify_eq]

@[simp] theorem unspecify_inputs (s : State) (rs : List Region) :
    (unspecify s rs).inputs = s.inputs := by
  rw [unspecify_eq]

/-- A soft reset changes bytes of the abandoned command's destinations only. -/
theorem sameBytesOutsideRegions_softReset (s : State) :
    SameBytesOutsideRegions (abandonedRegions s) s (softReset s) :=
  sameBytesOutsideRegions_unspecify s (abandonedRegions s)

theorem abandonedRegions_idle {s : State} (h : s.busy = false) : abandonedRegions s = [] := by
  simp [abandonedRegions, h]

theorem abandonedRegions_unfetched {s : State} (h : s.params.lmemSize < s.cp.toNat + 32) :
    abandonedRegions s = [] := by
  have hf : fetch s = none := if_neg (by omega)
  simp [abandonedRegions, hf]

theorem abandonedRegions_undecoded {s : State} {e : DecodeError}
    (h : decodeBytes (readBytes s s.cp.toNat 32) = .error e) : abandonedRegions s = [] := by
  rw [decodeBytes_readBytes] at h
  unfold abandonedRegions fetch
  split_ifs <;> simp [h]

theorem abandonedRegions_subset {s : State} {i : Instr}
    (h : decodeBytes (readBytes s s.cp.toNat 32) = .ok i) : abandonedRegions s ⊆ destsOf i s := by
  rw [decodeBytes_readBytes] at h
  intro r hr
  unfold abandonedRegions fetch at hr
  split_ifs at hr with hb hf
  · simp only [h] at hr
    split at hr
    · cases hr
    · rwa [footprintOf_destRegions] at hr
  · cases hr
  · cases hr

/-- Settles O16: the bytes kept are those outside `abandonedRegions`, which lie in the destinations of the
command at CP. -/
theorem soft_reset : Obligations.soft_reset := by
  intro s v rest hturn hv
  have hx : step s = .next (reply .ack (softReset { s with inputs := rest })) := by
    rw [step_of_regWrite hturn (by decide) (by decide), ← writeCtrl_srst hv]
    rfl
  have hkept : SameBytesOutsideRegions (abandonedRegions s) s
      (reply .ack (softReset { s with inputs := rest })) :=
    sameBytesOutsideRegions_softReset { s with inputs := rest }
  have hall (h : abandonedRegions s = []) :
      SameBytes s (reply .ack (softReset { s with inputs := rest })) := fun a =>
    hkept a (by simp [h])
  refine ⟨_, hx, rfl, rfl, rfl, rfl, rfl, rfl, rfl, rfl, rfl, rfl, rfl, rfl, rfl, rfl, ?_, ?_, ?_,
    fun h => hall (abandonedRegions_idle h), fun h => hall (abandonedRegions_unfetched h),
    fun e h => hall (abandonedRegions_undecoded h),
    fun i h a ha => hkept a fun r hr => ha r (abandonedRegions_subset h hr)⟩
  · simp
  · simp [softReset]
  · simp [softReset]

/-! ## The end of a list (R1405, R1412) -/

/-- What a busy machine's engine does in one step: it completes a command that was fetched inside LMEM,
ends the list with HALT, or ends it with an error. -/
theorem engineStep_busy {s : State} (hb : s.busy = true) :
    (∃ t, engineStep s = .next t ∧ s.cp.toNat + 32 ≤ s.params.lmemSize ∧ Completed s t) ∨
    engineStep s = .next (completeHalt s) ∨
    ∃ e t, engineStep s = .next t ∧ e ≠ .none ∧ ErrorHalted e s t := by
  rcases engineStep_cases s with ⟨hidle, -⟩ | ⟨-, e, hx, he⟩ | ⟨-, hf, i, hi⟩
  · exact absurd (hb.symm.trans hidle) (by decide)
  · exact .inr (.inr ⟨e, _, hx, he, errorHalted_self e s⟩)
  · rw [hi]
    rcases exec_cases i s with ⟨-, hx⟩ | ⟨-, e, -, he, hx⟩ | ⟨-, -, ⟨e, he, hx⟩ | ⟨t, ht, hx⟩⟩
    · exact .inr (.inl hx)
    · exact .inr (.inr ⟨e, _, hx, he, errorHalted_self e s⟩)
    · exact .inr (.inr ⟨e, _, hx, executionError_ne_none he, errorHalted_unspecify e s _⟩)
    · exact .inl ⟨_, hx, hf, completed_of_frame ht⟩

theorem errCodeWord_eq_zero_iff (s : State) : errCodeWord s = 0 ↔ s.errCode = .none := by
  unfold errCodeWord
  cases s.errCode <;> decide

/-- Settles O13: a busy legal machine has DONE = ERR = 0 and ERR_CODE = 0, and the step sets at most one of
the two bits. -/
theorem end_of_list_reported : Obligations.end_of_list_reported := by
  intro s t h hb hi hs
  obtain ⟨hdone, herr, hcode⟩ := h.status.1 hb
  rw [step_of_noMove hb hi] at hs
  rcases engineStep_busy hb with ⟨u, hx, -, hc⟩ | hx | ⟨e, u, hx, he, hh⟩ <;>
    obtain rfl := Host.Outcome.next.inj (hx.symm.trans hs)
  · obtain ⟨hbusy, hd, he, -⟩ := hc.status
    exact .inl ⟨hbusy.trans hb, by simp [irq, hd, he, hdone, herr]⟩
  · refine .inr (.inl ⟨rfl, ?_, (errCodeWord_eq_zero_iff _).2 hcode, ?_⟩)
    · simp [statusWord_eq, herr]
    · simp [irq, herr]
  · obtain ⟨-, -, herrIe, -⟩ := hh.control
    refine .inr (.inr ⟨hh.busy, ?_, ?_, ?_⟩)
    · simp [statusWord_eq, hh.busy, hh.done, hh.err, hdone]
    · rw [Ne, errCodeWord_eq_zero_iff, hh.code]
      exact he
    · simp [irq, hh.done, hh.err, hdone, herrIe]

theorem stepsFrom_succ {s t : State} (h : step s = .next t) (k : Nat) :
    stepsFrom (k + 1) s = stepsFrom k t := by
  rw [stepsFrom, h]

/-- A list runs and only the engine moves. -/
structure RunsAlone (s : State) : Prop where
  quiet : HostQuiet s
  busy  : s.busy = true
  done  : s.done = false
  err   : s.err = false

/-- The list has ended, with DONE or with ERR. -/
def ListEnded (s : State) : Prop := s.busy = false ∧ s.done ≠ s.err

theorem RunsAlone.completed {s t : State} (h : RunsAlone s) (hc : Completed s t) :
    RunsAlone t := by
  obtain ⟨-, -, -, -, -, hheld, hinputs, -⟩ := hc.control
  obtain ⟨hbusy, hdone, herr, -⟩ := hc.status
  exact ⟨⟨hinputs.trans h.quiet.1, hheld.trans h.quiet.2⟩, hbusy.trans h.busy, hdone.trans h.done,
    herr.trans h.err⟩

/-- One step ends the list, or completes a command that was fetched inside LMEM. -/
theorem RunsAlone.step {s : State} (h : RunsAlone s) :
    ∃ t, step s = .next t ∧
      (ListEnded t ∨ (s.cp.toNat + 32 ≤ s.params.lmemSize ∧ Completed s t)) := by
  rw [step_of_noMove h.busy h.quiet.1]
  rcases engineStep_busy h.busy with ⟨t, hx, hf, hc⟩ | hx | ⟨e, t, hx, -, hh⟩
  · exact ⟨t, hx, .inr ⟨hf, hc⟩⟩
  · exact ⟨_, hx, .inl ⟨rfl, by simp [h.err]⟩⟩
  · exact ⟨t, hx, .inl ⟨hh.busy, by simp [hh.done, hh.err, h.done]⟩⟩

/-- Each completion takes CP 32 bytes on, so of n descriptors between CP and LMEM_SIZE at most n
complete, and the step after them ends the list. -/
theorem RunsAlone.ends (n : Nat) {s : State} (h : RunsAlone s)
    (hsize : s.params.lmemSize ≤ 0x1000000)
    (hn : s.params.lmemSize < s.cp.toNat + 32 * (n + 1)) :
    ∃ k, k ≤ n + 1 ∧ ListEnded (stepsFrom k s) := by
  induction n generalizing s with
  | zero =>
    obtain ⟨t, hs, hend | ⟨hf, -⟩⟩ := h.step
    · exact ⟨1, le_rfl, by rwa [stepsFrom_succ hs]⟩
    · omega
  | succ n ih =>
    obtain ⟨t, hs, hend | ⟨hf, hc⟩⟩ := h.step
    · exact ⟨1, by omega, by rwa [stepsFrom_succ hs]⟩
    · obtain ⟨hparams, -⟩ := hc.control
      have hcp : t.cp.toNat = s.cp.toNat + 32 := by
        rw [hc.advanced.1]
        bv_omega
      obtain ⟨k, hk, hend⟩ := ih (h.completed hc) (by rwa [hparams]) (by rw [hparams]; omega)
      exact ⟨k + 1, by omega, by rwa [stepsFrom_succ hs]⟩

/-- Settles O9: LMEM_SIZE / 32 descriptors fit in LMEM. -/
theorem every_run_ends : Obligations.every_run_ends := by
  intro s hq hb hd he hsize
  exact RunsAlone.ends _ ⟨hq, hb, hd, he⟩ hsize (by omega)

end Sys2Proof.Machine
end

section
/-! SUPPORT. Commands and the host's side (spec/70_reset_and_hazards.md R1404): a command computes from
LMEM, the cursors and the parameters, so another host side goes through it unread. -/

namespace Sys2Proof.Machine

/-- With another host side the engine's step gives the same next state, with that host side. -/
def IgnoresHostSide (x : State → Host.Outcome State Fault Refusal) : Prop :=
  ∀ (s : State) (d e : Bool) (held : List HostReq) (inputs : List HostMove) (replies : List Reply),
    ∃ t, x s = .next t ∧
      x (withHostSide d e held inputs replies s) = .next (withHostSide d e held inputs replies t)

/-- A value that is computed from the bytes of LMEM and the parameters. -/
def FromLmem {α : Type} (g : State → α) : Prop :=
  ∀ ⦃s t : State⦄, readByte t = readByte s → t.params = s.params → g t = g s

/-- A body that reads nothing of the host's side and leaves it as it is. -/
def HostBlind (body : State → Except ErrCode State) : Prop :=
  ∀ (s : State) (d e : Bool) (held : List HostReq) (inputs : List HostMove) (replies : List Reply),
    body (withHostSide d e held inputs replies s) =
      (body s).map (withHostSide d e held inputs replies)

/-! ## Bodies -/

theorem FromLmem.withHostSide {α : Type} {g : State → α} (hg : FromLmem g) (s : State) (d e : Bool)
    (held : List HostReq) (inputs : List HostMove) (replies : List Reply) :
    g (withHostSide d e held inputs replies s) = g s :=
  hg (readByte_withHostSide d e held inputs replies s) rfl

theorem FromLmem.readBytes (a n : Nat) : FromLmem fun s => readBytes s a n :=
  fun _ _ h _ => congrFun (congrFun (readBytes_eq h) a) n

section
variable (d e : Bool) (held : List HostReq) (inputs : List HostMove) (replies : List Reply) (s : State)

@[simp] theorem inp_withHostSide : (withHostSide d e held inputs replies s).inp = s.inp := rfl
@[simp] theorem inEnd_withHostSide : (withHostSide d e held inputs replies s).inEnd = s.inEnd := rfl
@[simp] theorem outp_withHostSide : (withHostSide d e held inputs replies s).outp = s.outp := rfl
@[simp] theorem outEnd_withHostSide : (withHostSide d e held inputs replies s).outEnd = s.outEnd := rfl

end

section
variable {base : Nat}

theorem HostBlind.writeF64s {g : State → List F64} (hg : FromLmem g) :
    HostBlind fun s => .ok (writeF64s s base (g s)) := fun s d e held inputs replies => by
  dsimp only
  rw [hg.withHostSide, writeF64s_withHostSide]
  rfl

theorem HostBlind.writeBytes {g : State → List Byte} (hg : FromLmem g) :
    HostBlind fun s => .ok (writeBytes s base (g s)) := fun s d e held inputs replies => by
  dsimp only
  rw [hg.withHostSide, writeBytes_withHostSide]
  rfl

/-- A NaN may leave nothing to write. -/
theorem HostBlind.writeOption {g : State → Option (List Byte)} (hg : FromLmem g) :
    HostBlind fun s => match g s with
      | none => .error .numeric
      | some bytes => .ok (Machine.writeBytes s base bytes) := fun s d e held inputs replies => by
  dsimp only
  rw [hg.withHostSide]
  cases g s <;> rfl

end

/-! ## Commands -/

/-- The checks read the parameters and the footprint; the error halt and the completion leave the host's
side as it is. -/
theorem IgnoresHostSide.stream {f : State → Footprint} {body : State → Except ErrCode State}
    (hf : ∀ s d e held inputs replies, f (withHostSide d e held inputs replies s) = f s)
    (hb : HostBlind body) : IgnoresHostSide fun s => runCommand (f s) body s := by
  intro s d e held inputs replies
  have hbody := hb s d e held inputs replies
  dsimp only
  rw [hf]
  rcases runCommand_cases (f s) body s with ⟨c, hfirst, hx⟩ | ⟨hpass, ⟨c, hc, hx⟩ | ⟨t, ht, hx⟩⟩ <;>
    refine ⟨_, hx, ?_⟩
  · exact runCommand_error hfirst
  · rw [hc] at hbody
    refine (runCommand_bodyError (s := withHostSide d e held inputs replies s) hpass hbody).trans ?_
    rw [unspecify_withHostSide]
    rfl
  · rw [ht] at hbody
    exact runCommand_ok (s := withHostSide d e held inputs replies s) hpass hbody

/-- A command that uses no cursor. -/
theorem IgnoresHostSide.command {f : Footprint} {body : State → Except ErrCode State}
    (hb : HostBlind body) : IgnoresHostSide (runCommand f body) :=
  .stream (fun _ _ _ _ _ _ => rfl) hb

section
variable (c : Bool) (src dst dims : Word)

theorem ignoresHostSide_quant : IgnoresHostSide (quantCommand c src dst) :=
  .command (.writeOption fun _ _ h hp => by rw [quantTable_eq c hp, readBlock_eq h])

theorem ignoresHostSide_dequant : IgnoresHostSide (dequantCommand c src dst) :=
  .command (.writeF64s fun _ _ h hp => by rw [quantTable_eq c hp, readBytes_eq h])

theorem ignoresHostSide_qplane : IgnoresHostSide (qplaneCommand c src dst dims) :=
  .command (.writeOption fun _ _ h hp => by rw [quantTable_eq c hp, quantPlane_eq _ h])

theorem ignoresHostSide_dqplane : IgnoresHostSide (dqplaneCommand c src dst dims) :=
  .command (.writeF64s fun _ _ h hp => by rw [quantTable_eq c hp, dequantPlane_eq _ h])

theorem ignoresHostSide_ser : IgnoresHostSide (serCommand c src dst dims) :=
  .command (.writeBytes fun _ _ h _ => by rw [serialize_eq h])

theorem ignoresHostSide_deser : IgnoresHostSide (deserCommand c src dst dims) :=
  .command (.writeBytes fun _ _ h _ => by rw [deserialize_eq h])

theorem ignoresHostSide_compensate (f : F64 → F64 → F64) (ref vec : Word) :
    IgnoresHostSide (compensateCommand f c src ref vec dst dims) :=
  .command (.writeF64s fun _ _ h _ => by rw [compensate_eq f h])

theorem ignoresHostSide_cscf (y cb cr : Word) : IgnoresHostSide (execCscf src y cb cr dims) := by
  refine .command fun s d e held inputs replies => ?_
  have hplane := planeOfRaster_eq (readByte_withHostSide d e held inputs replies s)
  dsimp only
  rw [hplane, writeF64s_withHostSide, writeF64s_withHostSide, writeF64s_withHostSide]
  rfl

theorem ignoresHostSide_me (ref tgt vec res radius : Word) :
    IgnoresHostSide (execMe ref tgt vec res dims radius) := by
  refine .command fun s d e held inputs replies => ?_
  have hread := readByte_withHostSide d e held inputs replies s
  dsimp only
  rw [searchAll_eq hread, lumaResidual_eq hread, writeBytes_withHostSide, writeF64s_withHostSide]
  rfl

end

section
variable (a n : Word)

theorem ignoresHostSide_sput : IgnoresHostSide (execSput a n) := by
  refine .stream (fun _ _ _ _ _ _ => rfl) fun s d e held inputs replies => ?_
  rw [(FromLmem.readBytes _ _).withHostSide, writeBytes_withHostSide]
  rfl

theorem ignoresHostSide_sget : IgnoresHostSide (execSget a n) := by
  refine .stream (fun _ _ _ _ _ _ => rfl) fun s d e held inputs replies => ?_
  rw [(FromLmem.readBytes _ _).withHostSide, writeBytes_withHostSide]
  rfl

theorem ignoresHostSide_zrle : IgnoresHostSide (execZrle a n) := by
  refine .stream (fun _ _ _ _ _ _ => rfl) fun s d e held inputs replies => ?_
  simp only [(FromLmem.readBytes _ _).withHostSide, outp_withHostSide, outEnd_withHostSide]
  split_ifs <;> rfl

theorem ignoresHostSide_zrld : IgnoresHostSide (execZrld a n) := by
  refine .stream (fun _ _ _ _ _ _ => rfl) fun s d e held inputs replies => ?_
  simp only [(FromLmem.readBytes _ _).withHostSide, inp_withHostSide, inEnd_withHostSide]
  cases zrlDecode (readBytes s s.inp.toNat (s.inEnd.toNat - s.inp.toNat)) n.toNat <;> rfl

end

theorem exec_ignoresHostSide (i : Instr) : IgnoresHostSide (exec i) := by
  cases i with
  | nop => exact fun s _ _ _ _ _ => ⟨_, exec_nop s, exec_nop _⟩
  | halt => exact fun _ _ _ _ _ _ => ⟨_, rfl, rfl⟩
  | setin addr stop => exact .command (body := fun s => .ok (setInput addr stop s)) fun _ _ _ _ _ _ => rfl
  | setout addr stop => exact .command (body := fun s => .ok (setOutput addr stop s)) fun _ _ _ _ _ _ => rfl
  | sput src n => exact ignoresHostSide_sput src n
  | sget dst n => exact ignoresHostSide_sget dst n
  | cscf src y cb cr dims => exact ignoresHostSide_cscf src dims y cb cr
  | csci =>
    exact .command (.writeOption fun _ _ h hp => by rw [rasterOfPlanes_eq h hp])
  | subs => exact .command (.writeF64s fun _ _ h _ => by rw [decimate_eq h])
  | ups => exact .command (.writeF64s fun _ _ h _ => by rw [replicatePlane_eq h])
  | fdct => exact .command (.writeF64s fun _ _ h _ => by rw [readBlock_eq h])
  | idct => exact .command (.writeF64s fun _ _ h _ => by rw [readBlock_eq h])
  | quant src dst => exact ignoresHostSide_quant false src dst
  | quantC src dst => exact ignoresHostSide_quant true src dst
  | dequant src dst => exact ignoresHostSide_dequant false src dst
  | dequantC src dst => exact ignoresHostSide_dequant true src dst
  | qplane src dst dims => exact ignoresHostSide_qplane false src dst dims
  | qplaneC src dst dims => exact ignoresHostSide_qplane true src dst dims
  | dqplane src dst dims => exact ignoresHostSide_dqplane false src dst dims
  | dqplaneC src dst dims => exact ignoresHostSide_dqplane true src dst dims
  | zz => exact .command (.writeBytes fun _ _ h _ => by rw [zigzagBlock_eq h])
  | unzz => exact .command (.writeBytes fun _ _ h _ => by rw [unzigzagBlock_eq h])
  | ser src dst dims => exact ignoresHostSide_ser false src dst dims
  | serC src dst dims => exact ignoresHostSide_ser true src dst dims
  | deser src dst dims => exact ignoresHostSide_deser false src dst dims
  | deserC src dst dims => exact ignoresHostSide_deser true src dst dims
  | zrle src n => exact ignoresHostSide_zrle src n
  | zrld dst n => exact ignoresHostSide_zrld dst n
  | me ref tgt vec res dims radius => exact ignoresHostSide_me dims ref tgt vec res radius
  | psub tgt ref vec dst dims => exact ignoresHostSide_compensate false tgt dst dims fsub ref vec
  | psubC tgt ref vec dst dims => exact ignoresHostSide_compensate true tgt dst dims fsub ref vec
  | padd res ref vec dst dims => exact ignoresHostSide_compensate false res dst dims fadd ref vec
  | paddC res ref vec dst dims => exact ignoresHostSide_compensate true res dst dims fadd ref vec

/-- Settles O14: the data a command computes come from LMEM and the parameters, and only its writes, its
cursors and its status go into the next state. -/
theorem commands_ignore_host_side : Obligations.commands_ignore_host_side := exec_ignoresHostSide

end Sys2Proof.Machine
end
